-- ==== Sys2Proof/Word.lean ====
section
/-! DEFINITION. The value types of the machine (00_scope.md R12, R13): bytes, 32-bit words, and sequences whose length is
part of their type. The helpers over them stand in Machine/Bytes.lean. -/

namespace Sys2Proof

/-- A byte, 0 to 255 (R12). -/
abbrev Byte := BitVec 8

/-- A word of 32 bits (R13). -/
abbrev Word := BitVec 32

/-- A sequence of exactly `n` values, index 0 first. -/
abbrev Vec (α : Type) (n : Nat) := { l : List α // l.length = n }

/-- A byte sequence of exactly `n` bytes, byte 0 first (R12). -/
abbrev Bytes (n : Nat) := Vec Byte n

end Sys2Proof
end

