-- ==== Sys2Proof/Config.lean ====
section
/-! DEFINITION. What an implementation fixes: the record CFG of 00_scope.md R9 (a constant of this hardware, given to the
operations as an argument), the open capacities of R10, and the free values of 93_implementation_defined.md (opaque: no
proof sees what they are). -/

namespace Sys2Proof

/-- The three buffers, each an address space of its own (10_state.md R33). -/
inductive Space where
  | pw    -- the password
  | inp   -- the input (`IN`)
  | out   -- the output
  deriving DecidableEq, Repr

/-- `CFG.PRF` (R9): the pseudorandom functions this spec describes. There is one (R4). -/
inductive Prf where
  | hmacSha256
  deriving DecidableEq, Repr

/-- `CFG.CIPHER` (R9): the block ciphers this spec describes. There is one (R5). -/
inductive Cipher where
  | aes256
  deriving DecidableEq, Repr

/-- The record CFG (R9): no command and no host access writes it. -/
structure Cfg where
  prf : Prf
  hLen : Nat
  iter : Nat
  dkLen : Nat
  keyLen : Nat
  ivLen : Nat
  saltLen : Nat
  block : Nat
  cipher : Cipher
  marker : Bytes 8
  hdrLen : Nat
  strictMarker : Bool
  deriving DecidableEq, Repr

/-- The capacities and the length width that R10 leaves open. -/
structure Caps where
  pwMax : Nat
  inMax : Nat
  outMax : Nat
  lenBits : Nat
  deriving DecidableEq, Repr

/-- The capacity of a buffer in bytes (R60). -/
def Caps.cap (c : Caps) : Space → Nat
  | .pw => c.pwMax
  | .inp => c.inMax
  | .out => c.outMax

/-- The private registers whose content is unspecified after a command and after reset (93_implementation_defined.md U8), and
the model's operand latches. -/
inductive PrivReg where
  | salt | dkm | chain | padLen | blkN
  | kdfI | kdfJ | kdfU | kdfT | hmacK0 | hmacText
  | shaH | shaV | shaW | shaT | shaBlock | shaMessage
  | aesRk | aesS | aesR
  deriving DecidableEq, Repr

namespace Config

/-- The literal `"Salted__"` (30_encoding.md R91). -/
def marker : Bytes 8 := ⟨[0x53, 0x61, 0x6c, 0x74, 0x65, 0x64, 0x5f, 0x5f], rfl⟩

/-- CFG as this hardware has it (R9). -/
def cfg : Cfg where
  prf := .hmacSha256
  hLen := 32
  iter := 10000
  dkLen := 48
  keyLen := 32
  ivLen := 16
  saltLen := 8
  block := 16
  cipher := .aes256
  marker := marker
  hdrLen := 16
  strictMarker := false

/-- The capacities `State.reset` starts with. DESIGN CHOICE (log entry 3): R10 leaves them open, so the state carries them
and statements hold for every value. -/
def resetCaps : Caps where
  pwMax := 4096
  inMax := 65536
  outMax := 65568
  lenBits := 32

/-- Free value (log entry 4): the 8 bytes, as one 64-bit number, that RNG answers to its `n`-th request when no answer was
laid down for it (44_container.md R240, U11). -/
opaque drawWord : Nat → BitVec 64

/-- Free value (log entry 5): what the byte of a buffer holds that no rule gives a value: nothing has written it since a
reset (10_state.md R37, U12), or a command has ended and it is no byte of the result (U7, U9). The number counts those
events. -/
opaque unwritten (n : Nat) (sp : Space) (off : Nat) : Byte

/-- Free value (log entry 10): what a private register holds after the `n`-th event that leaves it unspecified, the end of a
command or a reset (U8): its bytes, or for a number its length. -/
opaque leftover (n : Nat) (r : PrivReg) : List Byte

/-- Free value (log entry 6): what HOST gets from a read of `CMD`, which stores nothing (10_state.md R29, U3). -/
opaque cmdRead : Nat → Byte

end Config

end Sys2Proof
end

