-- ==== Sys2Proof/Syntax.lean ====
section
/-! DEFINITION. The instructions: the 3 host commands and the 17 micro-operations of 30_encoding.md R98, one constructor per
row of the opcode table. None has an operand field (R95, R96): operands are the registers and buffers its rule names. -/

namespace Sys2Proof

inductive Instr where
  -- format CMD (R95)
  | derive
  | encode
  | decode
  -- format UOP (R96), family KDF
  | kdfRun
  | pbkdf2F
  | hmac
  | sha256Hash
  | sha256Compress
  | kdfSplit
  -- family AES
  | aesKeyexp
  | aesEncblk
  | aesDecblk
  -- family CBC
  | cbcInit
  | cbcEncstep
  | cbcDecstep
  -- family PAD
  | padApply
  | padInspect
  -- family CTR
  | rngSalt
  | ctrFormat
  | ctrParse
  deriving DecidableEq, Repr

end Sys2Proof
end

