-- ==== Sys2Proof/WellFormed.lean ====
section
/-! DEFINITION. The static checks: on the record CFG (the invariants between its fields, 00_scope.md R9), on the capacities
(R10) and on an instruction (nothing to check: no instruction has an operand field, 30_encoding.md R95, R96, R104). -/

namespace Sys2Proof

/-- The invariants between the fields of CFG that R9 states, and at least one iteration. -/
def Cfg.wellFormed (c : Cfg) : Bool :=
  c.dkLen == c.keyLen + c.ivLen
    && c.ivLen == c.block
    && c.hdrLen == c.marker.val.length + c.saltLen
    && decide (1 ≤ c.iter)

/-- The constraints R10 puts on the open capacities. -/
def Caps.wellFormed (c : Caps) : Bool :=
  decide (c.pwMax < 2 ^ 61)
    && decide (16 ≤ c.inMax)
    && decide (max 48 (c.inMax + 32) ≤ c.outMax)
    && decide (max c.pwMax (max c.inMax c.outMax) < 2 ^ c.lenBits)

/-- Every instruction is well formed: neither format has an operand field (R95, R96). -/
def Instr.wellFormed : Instr → Bool
  | .derive | .encode | .decode => true
  | .kdfRun | .pbkdf2F | .hmac | .sha256Hash | .sha256Compress | .kdfSplit => true
  | .aesKeyexp | .aesEncblk | .aesDecblk => true
  | .cbcInit | .cbcEncstep | .cbcDecstep => true
  | .padApply | .padInspect => true
  | .rngSalt | .ctrFormat | .ctrParse => true

end Sys2Proof
end

