-- ==== Sys2Proof/Decode.lean ====
section
/-! DEFINITION. The encodings of 30_encoding.md: two formats, CMD (R95) and UOP (R96), each one 8-bit field, in two separate
code spaces (R98). The table of rows, the decoders (total, rejecting by name), the encoder. -/

namespace Sys2Proof

/-- The two instruction formats (R98): a value written to `CMD`, or the content of `PHASE`. -/
inductive Format where
  | cmd
  | uop
  deriving DecidableEq, Repr

/-- Why bytes are no instruction. -/
inductive Reject where
  /-- No byte is there. -/
  | empty
  /-- A value written to `CMD` other than `0x01`, `0x02`, `0x03` (R100, U1). -/
  | reservedCommand (code : Byte)
  /-- A content of `PHASE` that is none of the 17 micro-operation codes (R100). -/
  | reservedPhase (code : Byte)
  deriving DecidableEq, Repr

/-- One row of the opcode map (R98). -/
structure OpRow where
  format : Format
  mask : Byte
  bits : Byte
  instr : Instr
  deriving DecidableEq, Repr

/-- The rows of format CMD (R95). -/
def cmdRows : List OpRow :=
  [⟨.cmd, 0xFF, 0x01, .derive⟩, ⟨.cmd, 0xFF, 0x02, .encode⟩, ⟨.cmd, 0xFF, 0x03, .decode⟩]

/-- The rows of format UOP (R96). -/
def uopRows : List OpRow :=
  [⟨.uop, 0xFF, 0x10, .kdfRun⟩, ⟨.uop, 0xFF, 0x11, .pbkdf2F⟩, ⟨.uop, 0xFF, 0x12, .hmac⟩,
   ⟨.uop, 0xFF, 0x13, .sha256Hash⟩, ⟨.uop, 0xFF, 0x14, .sha256Compress⟩, ⟨.uop, 0xFF, 0x15, .kdfSplit⟩]
  ++ [⟨.uop, 0xFF, 0x20, .aesKeyexp⟩, ⟨.uop, 0xFF, 0x21, .aesEncblk⟩, ⟨.uop, 0xFF, 0x22, .aesDecblk⟩]
  ++ [⟨.uop, 0xFF, 0x30, .cbcInit⟩, ⟨.uop, 0xFF, 0x31, .cbcEncstep⟩, ⟨.uop, 0xFF, 0x32, .cbcDecstep⟩]
  ++ [⟨.uop, 0xFF, 0x40, .padApply⟩, ⟨.uop, 0xFF, 0x41, .padInspect⟩]
  ++ [⟨.uop, 0xFF, 0x50, .rngSalt⟩, ⟨.uop, 0xFF, 0x51, .ctrFormat⟩, ⟨.uop, 0xFF, 0x52, .ctrParse⟩]

/-- The instruction of the first row that `b` matches under the row's mask. -/
def findRow (rows : List OpRow) (b : Byte) : Option Instr :=
  (rows.find? fun r => b &&& r.mask == r.bits).map OpRow.instr

/-- What a value written to `CMD` asks for (R95, R100). -/
def decodeCmd (b : Byte) : Except Reject Instr :=
  match findRow cmdRows b with
  | some i => .ok i
  | none => .error (.reservedCommand b)

/-- Which micro-operation a content of `PHASE` is (R96, R100). -/
def decodeUop (b : Byte) : Except Reject Instr :=
  match findRow uopRows b with
  | some i => .ok i
  | none => .error (.reservedPhase b)

/-- The instruction at the front of a list of bytes, read in the format given, and the bytes after it (R98, R104). -/
def decode (f : Format) : List Byte → Except Reject (Instr × List Byte)
  | [] => .error .empty
  | b :: rest =>
    match f with
    | .cmd => (decodeCmd b).map fun i => (i, rest)
    | .uop => (decodeUop b).map fun i => (i, rest)

/-- The format of an instruction (R98). -/
def Instr.format : Instr → Format
  | .derive | .encode | .decode => .cmd
  | .kdfRun | .pbkdf2F | .hmac | .sha256Hash | .sha256Compress | .kdfSplit => .uop
  | .aesKeyexp | .aesEncblk | .aesDecblk => .uop
  | .cbcInit | .cbcEncstep | .cbcDecstep => .uop
  | .padApply | .padInspect => .uop
  | .rngSalt | .ctrFormat | .ctrParse => .uop

/-- The 8-bit code of an instruction (R95, R96). -/
def Instr.code : Instr → Byte
  | .derive => 0x01
  | .encode => 0x02
  | .decode => 0x03
  | .kdfRun => 0x10
  | .pbkdf2F => 0x11
  | .hmac => 0x12
  | .sha256Hash => 0x13
  | .sha256Compress => 0x14
  | .kdfSplit => 0x15
  | .aesKeyexp => 0x20
  | .aesEncblk => 0x21
  | .aesDecblk => 0x22
  | .cbcInit => 0x30
  | .cbcEncstep => 0x31
  | .cbcDecstep => 0x32
  | .padApply => 0x40
  | .padInspect => 0x41
  | .rngSalt => 0x50
  | .ctrFormat => 0x51
  | .ctrParse => 0x52

/-- The bytes of an instruction: one byte (R104). -/
def encode (i : Instr) : List Byte := [i.code]

/-- The format a byte belongs to when only the opcode table is at hand: the CMD codes and the UOP codes do not meet. -/
def tableFormat (b : Byte) : Format :=
  if (findRow cmdRows b).isSome then .cmd else .uop

/-- The instruction of an opcode-table word: every row of the table is one 8-bit field (R98, R104). -/
def decodeTableWord (nbits w : Nat) : Option Instr :=
  if nbits = 8 then
    match decode (tableFormat (BitVec.ofNat 8 w)) [BitVec.ofNat 8 w] with
    | .ok (i, []) => some i
    | _ => none
  else none

end Sys2Proof
end

