-- ==== Sys2Proof/Machine/Bytes.lean ====
section
/-! DEFINITION. Byte-sequence and byte-order helpers (00_scope.md R12, R13; 20_memory.md R64, R65). -/

namespace Sys2Proof

/-- The sequence of length `n` whose entry `k` is `f k`. -/
def Vec.ofFn {α : Type} (n : Nat) (f : Nat → α) : Vec α n := ⟨(List.range n).map f, by simp⟩

/-- Entry `k`, or `d` past the end. -/
def Vec.at {α : Type} {n : Nat} (v : Vec α n) (d : α) (k : Nat) : α := v.val.getD k d

/-- `n` zero bytes. -/
def Bytes.zero (n : Nat) : Bytes n := ⟨List.replicate n 0, by simp⟩

/-- `s[k]` (R12). -/
def Bytes.byte {n : Nat} (v : Bytes n) (k : Nat) : Byte := v.val.getD k 0

/-- The first `n` bytes of `l`, zero-extended where `l` is shorter. -/
def Bytes.ofList (n : Nat) (l : List Byte) : Bytes n := Vec.ofFn n fun k => l.getD k 0

/-- `s XOR t`, byte by byte (R13). -/
def Bytes.xor {n : Nat} (v w : Bytes n) : Bytes n := Vec.ofFn n fun k => v.byte k ^^^ w.byte k

/-- `s ‖ t` (R12). -/
def Bytes.append {m n : Nat} (v : Bytes m) (w : Bytes n) : Bytes (m + n) :=
  ⟨v.val ++ w.val, by simp [v.property, w.property]⟩

/-- `s[a .. a+n-1]` (R12). -/
def Bytes.slice {m : Nat} (v : Bytes m) (a n : Nat) : Bytes n := Vec.ofFn n fun k => v.byte (a + k)

/-- `be32(w)`: 4 bytes, most significant first (R13). -/
def be32 (w : Word) : Bytes 4 := Vec.ofFn 4 fun k => w.extractLsb' (8 * (3 - k)) 8

/-- `be64(n)`: 8 bytes, most significant first (R13). -/
def be64 (w : BitVec 64) : Bytes 8 := Vec.ofFn 8 fun k => w.extractLsb' (8 * (7 - k)) 8

/-- `word_be(s)` of 4 bytes, `s[0]` most significant (R13). -/
def wordBE (b0 b1 b2 b3 : Byte) : Word :=
  (b0.setWidth 32 <<< 24) ||| (b1.setWidth 32 <<< 16) ||| (b2.setWidth 32 <<< 8) ||| b3.setWidth 32

end Sys2Proof
end

