-- ==== Sys2Proof/Machine/State.lean ====
section
/-! DEFINITION. The state of the machine as plain data (10_state.md), the reasons a step can stop, and the state after
reset (R37). -/

namespace Sys2Proof.Machine

/-- The content of a buffer as written cells, addresses strictly rising. An address that is not listed holds no written
byte; what it reads as is `State.readByte`'s affair. -/
abbrev Mem := List Host.Cell

/-- Eight words: the chaining value `SHA_H[0..7]`, or the working variables `a..h` = `SHA_V[0..7]` (R31). -/
structure ShaWords where
  a : Word
  b : Word
  c : Word
  d : Word
  e : Word
  f : Word
  g : Word
  h : Word
  deriving DecidableEq, Repr

/-- The registers of the hash unit (R31, R25), and the two operand latches of the model (log entry 8). -/
structure ShaRegs where
  /-- `SHA_H` -/
  h : ShaWords
  /-- `SHA_V` -/
  v : ShaWords
  /-- `SHA_W` -/
  w : Vec Word 64
  /-- `SHA_T` (R25) -/
  t : BitVec 6
  /-- the block operand `B` of SHA256.COMPRESS -/
  blk : Bytes 64
  /-- the message operand `m` of SHA256.HASH -/
  msg : List Byte
  deriving DecidableEq, Repr

/-- The registers of the key-derivation engine (R25, R31), and the text latch of HMAC (log entry 8). -/
structure KdfRegs where
  /-- `KDF_I` (R25) -/
  i : Word
  /-- `KDF_J` (R25) -/
  j : Word
  /-- `KDF_U` -/
  u : Bytes 32
  /-- `KDF_T` -/
  t : Bytes 32
  /-- `HMAC_K0` -/
  k0 : Bytes 64
  /-- the text operand `x` of HMAC -/
  text : List Byte
  sha : ShaRegs
  deriving DecidableEq, Repr

/-- The registers of the cipher unit (R32, R25). -/
structure AesRegs where
  /-- `AES_RK` -/
  rk : Vec (Bytes 16) 15
  /-- `AES_S`: the block operand before AES.ENCBLK and AES.DECBLK, their result after (log entry 8) -/
  s : Bytes 16
  /-- `AES_R` (R25) -/
  r : BitVec 4
  deriving DecidableEq, Repr

/-- What the outside world does, in the order it does it: HOST's accesses (45_commands.md R267, 30_encoding.md R105), HOST
standing still, and the reset input (70_reset_and_hazards.md R340). -/
inductive HostMove where
  /-- Write `v` to register `no`; to register `0x00` this issues a command (R260). -/
  | writeReg (no v : Nat)
  /-- Read register `no` (R29). -/
  | readReg (no : Nat)
  /-- Write bytes to a buffer from offset `off`. -/
  | writeBuf (sp : Space) (off : Nat) (bytes : List Byte)
  /-- Read `n` bytes of a buffer from offset `off`. -/
  | readBuf (sp : Space) (off n : Nat)
  /-- `READ OUT` of R105: read `OUT[0..OUT_LEN-1]`. -/
  | readOut
  /-- `WAIT` of R105: read `STATUS` until `DONE = 1`. -/
  | wait
  /-- HOST makes no access while SEQ makes one step. -/
  | pass
  /-- The reset input strikes (R340). -/
  | reset
  deriving DecidableEq, Repr

/-- What one access has given to HOST. -/
inductive HostValue where
  | reg (no v : Nat)
  | bytes (l : List Byte)
  deriving DecidableEq, Repr

/-- The state. The fields down to `out` are the spec's; the last seven are the model's own (log entries 1, 3, 4, 5, 10). -/
structure State where
  /-- `PHASE` as its 8-bit code (R24) -/
  phase : Byte
  /-- `CUR_CMD` (R26) -/
  curCmd : Byte
  /-- `STATUS` (R27) -/
  status : Byte
  /-- `PW_LEN` (R29) -/
  pwLen : Nat
  /-- `IN_LEN` (R29) -/
  inLen : Nat
  /-- `OUT_LEN` (R29) -/
  outLen : Nat
  /-- `PAD_OK` (R28) -/
  padOk : Bool
  /-- `PAD_LEN` (R28) -/
  padLen : BitVec 5
  /-- `BLK_N` (R25) -/
  blkN : Nat
  /-- `SALT` (R21) -/
  salt : Bytes 8
  /-- `DKM`, whose views are `KEY` and `IV` (R21, R23) -/
  dkm : Bytes 48
  /-- `CHAIN` (R21) -/
  chain : Bytes 16
  /-- `KDF_I`, `KDF_J`, `KDF_U`, `KDF_T`, `HMAC_K0` and the hash unit -/
  kdf : KdfRegs
  /-- `AES_RK`, `AES_S`, `AES_R` -/
  aes : AesRegs
  /-- buffer `PW` (R33) -/
  pw : Mem
  /-- buffer `IN` (R33) -/
  inp : Mem
  /-- buffer `OUT` (R33) -/
  out : Mem
  /-- the capacities R10 leaves open; no step writes them -/
  caps : Caps
  /-- the answers RNG will give, the next one first (R240, R313) -/
  rng : List (Bytes 8)
  /-- how many salts were drawn -/
  draws : Nat
  /-- how many times the reset input struck -/
  epoch : Nat
  /-- how many times the private registers became unspecified: commands ended and resets (U8) -/
  lapses : Nat
  /-- what the outside world does next -/
  host : List HostMove
  /-- what HOST has read, latest first -/
  seen : List HostValue
  deriving DecidableEq, Repr

/-- Why the machine stops with a fault. -/
inductive Fault where
  /-- Raised by the buffer accesses of SEQ (`State.reading`, `State.writing`) past the capacity of a buffer: 20_memory.md R61
  requires `off + n <= CAP`. Safe: R62 and R245 say SEQ never makes such an access. -/
  | outOfBuffer (sp : Space)
  /-- Raised by KDF.SPLIT and CBC.INIT when `CUR_CMD` holds no command whose microprogram contains them, so that
  45_commands.md R264 gives no successor. Safe: no run reaches it. -/
  | noMicroprogram
  deriving DecidableEq, Repr

/-- Why a step is refused. -/
inductive Refusal where
  /-- Raised by the dispatch alone, for an instruction that has no meaning yet. Safe. -/
  | notModelled (mnemonic : String)
  /-- Raised by a write to `CMD` of a code other than `0x01`, `0x02`, `0x03` (U1, treatment refuse). Safe. -/
  | reservedCommand
  /-- Raised by a step whose `PHASE` is none of the 20 codes (R100: can never arise). Safe. -/
  | reservedPhase
  /-- Raised by every HOST access but a read of `STATUS` while `BUSY = 1` (U6, treatment refuse). Safe. -/
  | accessWhileBusy
  /-- Raised by a HOST access that the table of R267 forbids at all times, or by a read of `OUT` that it forbids now (U6,
  treatment refuse). Safe. -/
  | accessForbidden
  /-- Raised by a HOST write of a length above the capacity (U4), or of bytes past it (R61); treatment refuse. Safe. -/
  | aboveCapacity
  /-- Raised by a HOST access to a register number with no register (U5, treatment refuse). Safe. -/
  | unassignedRegister
  deriving DecidableEq, Repr

/-- What a meaning answers. -/
abbrev Out := Host.Outcome State Fault Refusal

/-- Eight zero words. -/
def ShaWords.zero : ShaWords := ⟨0, 0, 0, 0, 0, 0, 0, 0⟩

/-- The hash unit after reset. R37 leaves its registers unspecified; zero is a DESIGN CHOICE (log entry 7). -/
def ShaRegs.reset : ShaRegs where
  h := .zero
  v := .zero
  w := ⟨List.replicate 64 0, by simp⟩
  t := 0
  blk := ⟨List.replicate 64 0, by simp⟩
  msg := []

/-- The key-derivation registers after reset (log entry 7). -/
def KdfRegs.reset : KdfRegs where
  i := 0
  j := 0
  u := ⟨List.replicate 32 0, by simp⟩
  t := ⟨List.replicate 32 0, by simp⟩
  k0 := ⟨List.replicate 64 0, by simp⟩
  text := []
  sha := .reset

/-- The cipher unit after reset (log entry 7). -/
def AesRegs.reset : AesRegs where
  rk := ⟨List.replicate 15 ⟨List.replicate 16 0, by simp⟩, by simp⟩
  s := ⟨List.replicate 16 0, by simp⟩
  r := 0

/-- The machine right after reset (R37): `PHASE` at IDLE, no command, `STATUS` and the lengths 0, `PAD_OK` 0, nothing
written to a buffer. The registers R37 leaves unspecified are zero (DESIGN CHOICE, log entry 7). -/
def State.reset : State where
  phase := 0x00
  curCmd := 0x00
  status := 0x00
  pwLen := 0
  inLen := 0
  outLen := 0
  padOk := false
  padLen := 0
  blkN := 0
  salt := ⟨List.replicate 8 0, by simp⟩
  dkm := ⟨List.replicate 48 0, by simp⟩
  chain := ⟨List.replicate 16 0, by simp⟩
  kdf := .reset
  aes := .reset
  pw := []
  inp := []
  out := []
  caps := Config.resetCaps
  rng := []
  draws := 0
  epoch := 0
  lapses := 0
  host := []
  seen := []

end Sys2Proof.Machine
end

