-- ==== Sys2Proof/Machine/CipherUnit.lean ====
section
/-! DEFINITION. The cipher unit: the field arithmetic, tables and layers of AES-256 (41_aes.md R171 to R178), the key
schedule (R179), and the block operations over the unit's registers (R180, R181). -/

namespace Sys2Proof.Machine

/-! ### The field (R171) -/

/-- `xtime(a)`. -/
def xtime (a : Byte) : Byte := if a < 0x80 then a <<< 1 else (a <<< 1) ^^^ 0x1b

/-- `xtime^k(a)`. -/
def xtimePow : Nat → Byte → Byte
  | 0, a => a
  | k + 1, a => xtime (xtimePow k a)

/-- `gmul(a, b)`: the XOR over every bit `k` of `b` that is 1 of `xtime^k(a)`. -/
def gmul (a b : Byte) : Byte :=
  (List.range 8).foldl (fun acc k => if b.getLsbD k then acc ^^^ xtimePow k a else acc) 0

/-! ### The tables (R173, R174) -/

/-- `SBOX[0..255]` (R173). -/
def sboxTable : List Byte :=
  [0x63, 0x7c, 0x77, 0x7b, 0xf2, 0x6b, 0x6f, 0xc5, 0x30, 0x01, 0x67, 0x2b, 0xfe, 0xd7, 0xab, 0x76]
  ++ [0xca, 0x82, 0xc9, 0x7d, 0xfa, 0x59, 0x47, 0xf0, 0xad, 0xd4, 0xa2, 0xaf, 0x9c, 0xa4, 0x72, 0xc0]
  ++ [0xb7, 0xfd, 0x93, 0x26, 0x36, 0x3f, 0xf7, 0xcc, 0x34, 0xa5, 0xe5, 0xf1, 0x71, 0xd8, 0x31, 0x15]
  ++ [0x04, 0xc7, 0x23, 0xc3, 0x18, 0x96, 0x05, 0x9a, 0x07, 0x12, 0x80, 0xe2, 0xeb, 0x27, 0xb2, 0x75]
  ++ [0x09, 0x83, 0x2c, 0x1a, 0x1b, 0x6e, 0x5a, 0xa0, 0x52, 0x3b, 0xd6, 0xb3, 0x29, 0xe3, 0x2f, 0x84]
  ++ [0x53, 0xd1, 0x00, 0xed, 0x20, 0xfc, 0xb1, 0x5b, 0x6a, 0xcb, 0xbe, 0x39, 0x4a, 0x4c, 0x58, 0xcf]
  ++ [0xd0, 0xef, 0xaa, 0xfb, 0x43, 0x4d, 0x33, 0x85, 0x45, 0xf9, 0x02, 0x7f, 0x50, 0x3c, 0x9f, 0xa8]
  ++ [0x51, 0xa3, 0x40, 0x8f, 0x92, 0x9d, 0x38, 0xf5, 0xbc, 0xb6, 0xda, 0x21, 0x10, 0xff, 0xf3, 0xd2]
  ++ [0xcd, 0x0c, 0x13, 0xec, 0x5f, 0x97, 0x44, 0x17, 0xc4, 0xa7, 0x7e, 0x3d, 0x64, 0x5d, 0x19, 0x73]
  ++ [0x60, 0x81, 0x4f, 0xdc, 0x22, 0x2a, 0x90, 0x88, 0x46, 0xee, 0xb8, 0x14, 0xde, 0x5e, 0x0b, 0xdb]
  ++ [0xe0, 0x32, 0x3a, 0x0a, 0x49, 0x06, 0x24, 0x5c, 0xc2, 0xd3, 0xac, 0x62, 0x91, 0x95, 0xe4, 0x79]
  ++ [0xe7, 0xc8, 0x37, 0x6d, 0x8d, 0xd5, 0x4e, 0xa9, 0x6c, 0x56, 0xf4, 0xea, 0x65, 0x7a, 0xae, 0x08]
  ++ [0xba, 0x78, 0x25, 0x2e, 0x1c, 0xa6, 0xb4, 0xc6, 0xe8, 0xdd, 0x74, 0x1f, 0x4b, 0xbd, 0x8b, 0x8a]
  ++ [0x70, 0x3e, 0xb5, 0x66, 0x48, 0x03, 0xf6, 0x0e, 0x61, 0x35, 0x57, 0xb9, 0x86, 0xc1, 0x1d, 0x9e]
  ++ [0xe1, 0xf8, 0x98, 0x11, 0x69, 0xd9, 0x8e, 0x94, 0x9b, 0x1e, 0x87, 0xe9, 0xce, 0x55, 0x28, 0xdf]
  ++ [0x8c, 0xa1, 0x89, 0x0d, 0xbf, 0xe6, 0x42, 0x68, 0x41, 0x99, 0x2d, 0x0f, 0xb0, 0x54, 0xbb, 0x16]

/-- `INV_SBOX[0..255]` (R174). -/
def invSboxTable : List Byte :=
  [0x52, 0x09, 0x6a, 0xd5, 0x30, 0x36, 0xa5, 0x38, 0xbf, 0x40, 0xa3, 0x9e, 0x81, 0xf3, 0xd7, 0xfb]
  ++ [0x7c, 0xe3, 0x39, 0x82, 0x9b, 0x2f, 0xff, 0x87, 0x34, 0x8e, 0x43, 0x44, 0xc4, 0xde, 0xe9, 0xcb]
  ++ [0x54, 0x7b, 0x94, 0x32, 0xa6, 0xc2, 0x23, 0x3d, 0xee, 0x4c, 0x95, 0x0b, 0x42, 0xfa, 0xc3, 0x4e]
  ++ [0x08, 0x2e, 0xa1, 0x66, 0x28, 0xd9, 0x24, 0xb2, 0x76, 0x5b, 0xa2, 0x49, 0x6d, 0x8b, 0xd1, 0x25]
  ++ [0x72, 0xf8, 0xf6, 0x64, 0x86, 0x68, 0x98, 0x16, 0xd4, 0xa4, 0x5c, 0xcc, 0x5d, 0x65, 0xb6, 0x92]
  ++ [0x6c, 0x70, 0x48, 0x50, 0xfd, 0xed, 0xb9, 0xda, 0x5e, 0x15, 0x46, 0x57, 0xa7, 0x8d, 0x9d, 0x84]
  ++ [0x90, 0xd8, 0xab, 0x00, 0x8c, 0xbc, 0xd3, 0x0a, 0xf7, 0xe4, 0x58, 0x05, 0xb8, 0xb3, 0x45, 0x06]
  ++ [0xd0, 0x2c, 0x1e, 0x8f, 0xca, 0x3f, 0x0f, 0x02, 0xc1, 0xaf, 0xbd, 0x03, 0x01, 0x13, 0x8a, 0x6b]
  ++ [0x3a, 0x91, 0x11, 0x41, 0x4f, 0x67, 0xdc, 0xea, 0x97, 0xf2, 0xcf, 0xce, 0xf0, 0xb4, 0xe6, 0x73]
  ++ [0x96, 0xac, 0x74, 0x22, 0xe7, 0xad, 0x35, 0x85, 0xe2, 0xf9, 0x37, 0xe8, 0x1c, 0x75, 0xdf, 0x6e]
  ++ [0x47, 0xf1, 0x1a, 0x71, 0x1d, 0x29, 0xc5, 0x89, 0x6f, 0xb7, 0x62, 0x0e, 0xaa, 0x18, 0xbe, 0x1b]
  ++ [0xfc, 0x56, 0x3e, 0x4b, 0xc6, 0xd2, 0x79, 0x20, 0x9a, 0xdb, 0xc0, 0xfe, 0x78, 0xcd, 0x5a, 0xf4]
  ++ [0x1f, 0xdd, 0xa8, 0x33, 0x88, 0x07, 0xc7, 0x31, 0xb1, 0x12, 0x10, 0x59, 0x27, 0x80, 0xec, 0x5f]
  ++ [0x60, 0x51, 0x7f, 0xa9, 0x19, 0xb5, 0x4a, 0x0d, 0x2d, 0xe5, 0x7a, 0x9f, 0x93, 0xc9, 0x9c, 0xef]
  ++ [0xa0, 0xe0, 0x3b, 0x4d, 0xae, 0x2a, 0xf5, 0xb0, 0xc8, 0xeb, 0xbb, 0x3c, 0x83, 0x53, 0x99, 0x61]
  ++ [0x17, 0x2b, 0x04, 0x7e, 0xba, 0x77, 0xd6, 0x26, 0xe1, 0x69, 0x14, 0x63, 0x55, 0x21, 0x0c, 0x7d]

/-- `SBOX[a]`. -/
def sbox (a : Byte) : Byte := sboxTable.getD a.toNat 0

/-- `INV_SBOX[a]`. -/
def invSbox (a : Byte) : Byte := invSboxTable.getD a.toNat 0

/-! ### The layers. State byte `r + 4c` stands at row `r`, column `c` (R172). -/

/-- SubBytes (R175). -/
def subBytes (s : Bytes 16) : Bytes 16 := Vec.ofFn 16 fun k => sbox (s.byte k)

/-- InvSubBytes (R175). -/
def invSubBytes (s : Bytes 16) : Bytes 16 := Vec.ofFn 16 fun k => invSbox (s.byte k)

/-- ShiftRows (R176): row `k % 4`, column `k / 4`. -/
def shiftRows (s : Bytes 16) : Bytes 16 := Vec.ofFn 16 fun k => s.byte (k % 4 + 4 * ((k / 4 + k % 4) % 4))

/-- InvShiftRows (R176). -/
def invShiftRows (s : Bytes 16) : Bytes 16 := Vec.ofFn 16 fun k => s.byte (k % 4 + 4 * ((k / 4 + 4 - k % 4) % 4))

/-- Byte `r` of a column whose bytes are `a0..a3` under the circulant matrix of R177 whose first row is `m0..m3`: row `r`
is the first row moved right by `r`. -/
def mixByte (m : Nat → Byte) (a : Nat → Byte) (r : Nat) : Byte :=
  gmul (a 0) (m ((4 - r) % 4)) ^^^ gmul (a 1) (m ((5 - r) % 4)) ^^^ gmul (a 2) (m ((6 - r) % 4))
    ^^^ gmul (a 3) (m ((7 - r) % 4))

/-- The first row of MixColumns (R177). -/
def mixRow (k : Nat) : Byte := [0x02, 0x03, 0x01, 0x01].getD k 0

/-- The first row of InvMixColumns (R177). -/
def invMixRow (k : Nat) : Byte := [0x0e, 0x0b, 0x0d, 0x09].getD k 0

/-- MixColumns (R177). -/
def mixColumns (s : Bytes 16) : Bytes 16 :=
  Vec.ofFn 16 fun k => mixByte mixRow (fun i => s.byte (4 * (k / 4) + i)) (k % 4)

/-- InvMixColumns (R177). -/
def invMixColumns (s : Bytes 16) : Bytes 16 :=
  Vec.ofFn 16 fun k => mixByte invMixRow (fun i => s.byte (4 * (k / 4) + i)) (k % 4)

/-- AddRoundKey with the round key `rk` (R178). -/
def addRoundKey (rk s : Bytes 16) : Bytes 16 := s.xor rk

/-! ### The key schedule (R179) -/

/-- RotWord. -/
def rotWord (t : Bytes 4) : Bytes 4 := Vec.ofFn 4 fun k => t.byte ((k + 1) % 4)

/-- SubWord. -/
def subWord (t : Bytes 4) : Bytes 4 := Vec.ofFn 4 fun k => sbox (t.byte k)

/-- `RCON[k]`, `k >= 1`, XORed onto byte 0 of a word. -/
def addRcon (t : Bytes 4) (k : Nat) : Bytes 4 :=
  Vec.ofFn 4 fun j => if j = 0 then t.byte 0 ^^^ xtimePow (k - 1) 0x01 else t.byte j

/-- Word `i` of the schedule, 8 to 59, from the words before it. -/
def keyWord (w : List (Bytes 4)) (i : Nat) : Bytes 4 :=
  let prev := w.getD (i - 1) (Bytes.zero 4)
  let t :=
    if i % 8 = 0 then addRcon (subWord (rotWord prev)) (i / 8)
    else if i % 8 = 4 then subWord prev
    else prev
  (w.getD (i - 8) (Bytes.zero 4)).xor t

/-- The next `n` words of the schedule, on top of the words there are. -/
def extendKey : Nat → List (Bytes 4) → List (Bytes 4)
  | 0, w => w
  | n + 1, w => extendKey n (w ++ [keyWord w w.length])

/-- The 60 words `w[0..59]`. -/
def keyWords (key : Bytes 32) : List (Bytes 4) :=
  extendKey 52 ((List.range 8).map fun i => key.slice (4 * i) 4)

/-- `w[4q] ‖ w[4q+1] ‖ w[4q+2] ‖ w[4q+3]`. -/
def roundKeyOf (w : List (Bytes 4)) (q : Nat) : Bytes 16 :=
  Vec.ofFn 16 fun k => (w.getD (4 * q + k / 4) (Bytes.zero 4)).byte (k % 4)

/-- AES_KEYEXP(KEY): the 15 round keys (R179). -/
def aesKeyExp (key : Bytes 32) : Vec (Bytes 16) 15 :=
  let w := keyWords key
  Vec.ofFn 15 fun q => roundKeyOf w q

/-! ### The block operations on the unit's registers (R180, R181) -/

/-- `AES_RK[q]`. -/
def AesRegs.roundKey (r : AesRegs) (q : Nat) : Bytes 16 := r.rk.at (Bytes.zero 16) q

/-- Round `q` of encryption, 1 to 13. -/
def AesRegs.encRound (r : AesRegs) (q : Nat) : AesRegs :=
  { r with s := addRoundKey (r.roundKey q) (mixColumns (shiftRows (subBytes r.s))), r := BitVec.ofNat 4 q }

/-- AES.ENCBLK of the block in `AES_S` (R180). -/
def AesRegs.encrypt (r : AesRegs) : AesRegs :=
  let r0 := { r with s := addRoundKey (r.roundKey 0) r.s, r := 0 }
  let r13 := ((List.range 13).map (· + 1)).foldl AesRegs.encRound r0
  { r13 with s := addRoundKey (r13.roundKey 14) (shiftRows (subBytes r13.s)), r := 14 }

/-- Round `q` of decryption, 13 down to 1. -/
def AesRegs.decRound (r : AesRegs) (q : Nat) : AesRegs :=
  { r with s := invMixColumns (addRoundKey (r.roundKey q) (invSubBytes (invShiftRows r.s))), r := BitVec.ofNat 4 q }

/-- AES.DECBLK of the block in `AES_S` (R181): the same round keys, in reverse order. -/
def AesRegs.decrypt (r : AesRegs) : AesRegs :=
  let r14 := { r with s := addRoundKey (r.roundKey 14) r.s, r := 14 }
  let r1 := ((List.range 13).map (13 - ·)).foldl AesRegs.decRound r14
  { r1 with s := addRoundKey (r1.roundKey 0) (invSubBytes (invShiftRows r1.s)), r := 0 }

end Sys2Proof.Machine
end

