-- ==== Sys2Proof/Machine/Flags.lean ====
section
/-! DEFINITION. The flags: the fields of STATUS (10_state.md R27, R99), the three errors and their codes
(60_exceptions.md R300 to R303), and the padding check behind PAD_OK and PAD_LEN (43_padding.md R222). -/

namespace Sys2Proof.Machine

/-- The errors, and nothing else (R300). -/
inductive Err where
  | formatError
  | paddingError
  | derivationError
  deriving DecidableEq, Repr

/-- The 2-bit error code (R99). -/
def Err.code : Err → BitVec 2
  | .formatError => 1
  | .paddingError => 2
  | .derivationError => 3

namespace Status

/-- Bit 0, BUSY (R27). -/
def busy (st : Byte) : Bool := st.getLsbD 0

/-- Bit 1, DONE (R27). -/
def done (st : Byte) : Bool := st.getLsbD 1

/-- Bits 3:2, ERR (R27). -/
def err (st : Byte) : BitVec 2 := st.extractLsb' 2 2

/-- `STATUS` with BUSY, DONE and ERR written and the reserved bits 7:4 as they were. -/
def put (busy done : Bool) (err : BitVec 2) (st : Byte) : Byte :=
  (st &&& 0xF0) ||| (err.setWidth 8 <<< 2) ||| ((BitVec.ofBool done).setWidth 8 <<< 1) ||| (BitVec.ofBool busy).setWidth 8

/-- What a read of `STATUS` gives: the reserved bits 7:4 read as 0 (R27, R103). -/
def visible (st : Byte) : Byte := st &&& 0x0F

end Status

/-- The pad length that the data `d` ends in, if its padding is valid (R222): the last byte `N` is 1 to 16 and each of the
last `N` bytes is `N`. Data shorter than `N` has no such bytes and is not valid (log entry 12). -/
def padCheck (d : List Byte) : Option Nat :=
  let last := d.getLastD 0
  let n := last.toNat
  if 1 ≤ n ∧ n ≤ 16 ∧ n ≤ d.length ∧ (∀ k ∈ List.range n, d.getD (d.length - (k + 1)) 0 = last) then some n else none

end Sys2Proof.Machine
end

