-- ==== Sys2Proof/Machine/Ops.lean ====
section
/-! DEFINITION. The named operations over memory and registers: a buffer's cells, MemRead and MemWrite (20_memory.md R61),
command issue (45_commands.md R260), completion (R266), error entry (60_exceptions.md R306), the salt draw (R240), the
reset event (70_reset_and_hazards.md R340). -/

namespace Sys2Proof.Machine

/-! ### The cells of a buffer -/

/-- The byte written last at `a`, if any. -/
def Mem.get? : Mem → Nat → Option Byte
  | [], _ => none
  | (b, x) :: rest, a => if b = a then some x else Mem.get? rest a

/-- `a` holds `x` from now on; every other address as before. -/
def Mem.set : Mem → Nat → Byte → Mem
  | [], a, x => [(a, x)]
  | (b, y) :: rest, a, x =>
    if a < b then (a, x) :: (b, y) :: rest
    else if a = b then (a, x) :: rest
    else (b, y) :: Mem.set rest a x

/-- The bytes are stored at `off`, `off + 1`, … (R61). -/
def Mem.write : Mem → Nat → List Byte → Mem
  | m, _, [] => m
  | m, off, x :: rest => Mem.write (Mem.set m off x) (off + 1) rest

/-- The canonical form: addresses strictly rising. No entry is redundant, because an address that is not listed holds no
written byte at all. -/
def Mem.wf : Mem → Bool
  | [] => true
  | [_] => true
  | (a, _) :: (b, y) :: rest => decide (a < b) && Mem.wf ((b, y) :: rest)

/-- Every listed address is below `n`. -/
def Mem.below (m : Mem) (n : Nat) : Bool := m.all fun c => decide (c.1 < n)

/-! ### Buffer access -/

/-- The cells of a buffer (R33, R73: three distinct storages). -/
def State.mem (s : State) : Space → Mem
  | .pw => s.pw
  | .inp => s.inp
  | .out => s.out

/-- The buffer's cells replaced. -/
def State.putMem (s : State) (sp : Space) (m : Mem) : State :=
  match sp with
  | .pw => { s with pw := m }
  | .inp => { s with inp := m }
  | .out => { s with out := m }

/-- How often the unlisted bytes of a buffer became unspecified: at each reset (R37, U12), and for `OUT` also at the end of
each command (U7, U9). -/
def State.stamp (s : State) : Space → Nat
  | .pw => s.epoch
  | .inp => s.epoch
  | .out => s.lapses

/-- One byte of a buffer. A byte that is not listed is a free value (log entry 5). -/
def State.readByte (s : State) (sp : Space) (a : Nat) : Byte :=
  ((s.mem sp).get? a).getD (Config.unwritten (s.stamp sp) sp a)

/-- `n` bytes of a buffer from `off`, lowest offset first. -/
def State.read (s : State) (sp : Space) (off n : Nat) : List Byte :=
  (List.range n).map fun k => s.readByte sp (off + k)

/-- `MemRead(sp, off, n)` (R61), its result handed to `k`. -/
def State.reading (s : State) (sp : Space) (off n : Nat) (k : List Byte → Out) : Out :=
  if off + n ≤ s.caps.cap sp then k (s.read sp off n) else .fault (.outOfBuffer sp)

/-- The state after the bytes `bs` are stored in a buffer from `off`. -/
def State.store (s : State) (sp : Space) (off : Nat) (bs : List Byte) : State :=
  s.putMem sp ((s.mem sp).write off bs)

/-- `MemWrite(sp, off, len(bs), bs)` (R61), the state after it handed to `k`. -/
def State.writing (s : State) (sp : Space) (off : Nat) (bs : List Byte) (k : State → Out) : Out :=
  if off + bs.length ≤ s.caps.cap sp then k (s.store sp off bs) else .fault (.outOfBuffer sp)

/-! ### What no rule gives a value any more (U7, U8, U9; log entry 10) -/

/-- Word `k` of what a private register is left with. -/
def leftWord (n : Nat) (r : PrivReg) (k : Nat) : Word :=
  let l := Config.leftover n r
  wordBE (l.getD (4 * k) 0) (l.getD (4 * k + 1) 0) (l.getD (4 * k + 2) 0) (l.getD (4 * k + 3) 0)

/-- Eight words of what a private register is left with. -/
def leftWords (n : Nat) (r : PrivReg) : ShaWords :=
  ⟨leftWord n r 0, leftWord n r 1, leftWord n r 2, leftWord n r 3,
   leftWord n r 4, leftWord n r 5, leftWord n r 6, leftWord n r 7⟩

/-- The bytes a private register is left with. -/
def leftBytes (n : Nat) (r : PrivReg) (len : Nat) : Bytes len := Bytes.ofList len (Config.leftover n r)

/-- The hash unit's registers, unspecified. -/
def ShaRegs.left (n : Nat) : ShaRegs where
  h := leftWords n .shaH
  v := leftWords n .shaV
  w := Vec.ofFn 64 (leftWord n .shaW)
  t := BitVec.ofNat 6 (Config.leftover n .shaT).length
  blk := leftBytes n .shaBlock 64
  msg := Config.leftover n .shaMessage

/-- The key-derivation registers, unspecified. -/
def KdfRegs.left (n : Nat) : KdfRegs where
  i := leftWord n .kdfI 0
  j := leftWord n .kdfJ 0
  u := leftBytes n .kdfU 32
  t := leftBytes n .kdfT 32
  k0 := leftBytes n .hmacK0 64
  text := Config.leftover n .hmacText
  sha := .left n

/-- The cipher unit's registers, unspecified. -/
def AesRegs.left (n : Nat) : AesRegs where
  rk := Vec.ofFn 15 fun q => Bytes.ofList 16 ((Config.leftover n .aesRk).drop (16 * q))
  s := leftBytes n .aesS 16
  r := BitVec.ofNat 4 (Config.leftover n .aesR).length

/-- The first `n` bytes of `OUT` as cells. -/
def State.outCells (s : State) (n : Nat) : Mem := (List.range n).map fun a => (a, s.readByte .out a)

/-- A command has ended, or reset has struck: the private registers of U8 hold anything, and so does every byte of `OUT`
from `OUT_LEN` on (U7, U9). `CUR_CMD` and `PAD_OK`, which U8 does not name, stay (DEDUCED, log entry 14). -/
def State.lapse (s : State) : State :=
  { s with
    salt := leftBytes s.lapses .salt 8
    dkm := leftBytes s.lapses .dkm 48
    chain := leftBytes s.lapses .chain 16
    kdf := .left s.lapses
    aes := .left s.lapses
    padLen := BitVec.ofNat 5 (Config.leftover s.lapses .padLen).length
    blkN := (Config.leftover s.lapses .blkN).length % 2 ^ s.caps.lenBits
    out := s.outCells s.outLen
    lapses := s.lapses + 1 }

/-! ### The sequencer's position and STATUS -/

/-- The position codes that are no micro-operation (R96). -/
def phaseIdle : Byte := 0x00
/-- DONE_OK (R96). -/
def phaseDoneOk : Byte := 0xF0
/-- DONE_ERR (R96). -/
def phaseDoneErr : Byte := 0xF1

/-- SEQ has a step of its own: `PHASE` is none of IDLE, DONE_OK, DONE_ERR (R30). -/
def State.running (s : State) : Bool :=
  !(s.phase == phaseIdle || s.phase == phaseDoneOk || s.phase == phaseDoneErr)

/-- `STATUS.BUSY` (R27). -/
def State.busy (s : State) : Bool := Status.busy s.status

/-- `STATUS.DONE` (R27). -/
def State.done (s : State) : Bool := Status.done s.status

/-- `STATUS.ERR` (R27). -/
def State.err (s : State) : BitVec 2 := Status.err s.status

/-- `PHASE <- p` (R30). -/
def State.goto (s : State) (p : Byte) : State := { s with phase := p }

/-- Command issue (R260): an error of an earlier command is cleared here and by reset only (R307). -/
def State.issue (s : State) (code first : Byte) : State :=
  { s with curCmd := code, status := Status.put true false 0 s.status, outLen := 0, phase := first }

/-- Completion (R266), `OUT_LEN` being written before it. -/
def State.complete (s : State) : State :=
  { s with phase := phaseDoneOk, status := Status.put false true 0 s.status }.lapse

/-- Error entry, the meaning of `raise E` (R306): nothing is saved, nothing is returned to, and there is no return
instruction (R307); `State.issue` is what leaves the error state. -/
def State.raise (s : State) (e : Err) : State :=
  { s with outLen := 0, status := Status.put false true e.code s.status, phase := phaseDoneErr }.lapse

/-! ### The random source -/

/-- What RNG answers to the next request: the answer laid down for it, or a free value (R240, R313, log entry 4). -/
def State.nextDraw (s : State) : Bytes 8 :=
  match s.rng with
  | salt :: _ => salt
  | [] => be64 (Config.drawWord s.draws)

/-- The request is answered (R69: each draw consumes fresh randomness). -/
def State.drawn (s : State) : State := { s with rng := s.rng.tail, draws := s.draws + 1 }

/-! ### Reset -/

/-- The reset input strikes (R340): every piece of the core's state at its value of R37, what R37 leaves unspecified at a
free value. The outside world (RNG, HOST and what it has read) and the capacities are not the core's state. -/
def State.resetEvent (s : State) : State :=
  { State.reset with
    caps := s.caps, rng := s.rng, draws := s.draws, epoch := s.epoch + 1, lapses := s.lapses, host := s.host,
    seen := s.seen }.lapse

end Sys2Proof.Machine
end

