-- ==== Sys2Proof/Machine/Operands.lean ====
section
/-! DEFINITION. The operand forms (30_encoding.md R95, 20_memory.md R63): the views of DKM, the password, the plaintext
block with its padding, the ciphertext block, the data PAD.INSPECT looks at. -/

namespace Sys2Proof.Machine

/-- `KEY = DKM[0..31]` (10_state.md R23, 30_encoding.md R92). -/
def keyOf (dkm : Bytes 48) : Bytes 32 := dkm.slice 0 32

/-- `IV = DKM[32..47]` (R23, R92). -/
def ivOf (dkm : Bytes 48) : Bytes 16 := dkm.slice 32 16

/-- The password operand `PW[0..PW_LEN-1]` (R95), its bytes handed to `k`. -/
def State.withPassword (s : State) (k : List Byte → Out) : Out := s.reading .pw 0 s.pwLen k

/-- The pad length `N` of a message of `n` bytes (43_padding.md R220). -/
def padLength (n : Nat) : Nat := 16 - n % 16

/-- How many blocks a message of `n` bytes has once it is padded (R220). -/
def paddedBlocks (n : Nat) : Nat := n / 16 + 1

/-- How many bytes of the message stand in its padded block `k`. -/
def bytesInBlock (n k : Nat) : Nat := min 16 (n - 16 * k)

/-- A padded block (R221) of a message of `n` bytes, from the message bytes that stand in it: those bytes, then `N`. -/
def padBlock (n : Nat) (bs : List Byte) : Bytes 16 :=
  Vec.ofFn 16 fun j => bs.getD j (BitVec.ofNat 8 (padLength n))

/-- Block `k` of the padded plaintext (R221), handed to `f`. -/
def State.withPlainBlock (s : State) (k : Nat) (f : Bytes 16 → Out) : Out :=
  s.reading .inp (16 * k) (bytesInBlock s.inLen k) fun bs => f (padBlock s.inLen bs)

/-- Block `k` of the ciphertext, `IN[16+16k .. 16+16k+15]` (R63 b), handed to `f`. -/
def State.withCipherBlock (s : State) (k : Nat) (f : Bytes 16 → Out) : Out :=
  s.reading .inp (16 + 16 * k) 16 fun bs => f (Bytes.ofList 16 bs)

/-- The ciphertext length `L` of a container (R104, 45_commands.md R263). -/
def State.cipherLen (s : State) : Nat := s.inLen - 16

/-- The ciphertext-length test of DECODE (R263, 20_memory.md R67) fails. -/
def State.badCipherLen (s : State) : Bool := s.cipherLen == 0 || s.cipherLen % 16 != 0

/-- An 8-byte salt field at offset `off` of `IN` (R63 a, R95), handed to `f`. -/
def State.withSaltField (s : State) (off : Nat) (f : Bytes 8 → Out) : Out :=
  s.reading .inp off 8 fun bs => f (Bytes.ofList 8 bs)

end Sys2Proof.Machine
end

