-- ==== Sys2Proof/Machine/Aes.lean ====
section
/-! DEFINITION. Family AES (41_aes.md): AES.KEYEXP, AES.ENCBLK, AES.DECBLK. -/

namespace Sys2Proof.Machine

/-- AES.KEYEXP (R179) of `KEY`; CBC.INIT follows (45_commands.md R264). -/
def execAesKeyexp (s : State) : Out :=
  .next ({ s with aes := { s.aes with rk := aesKeyExp (keyOf s.dkm) } }.goto Instr.cbcInit.code)

/-- AES.ENCBLK (R180) of the block in `AES_S`; its return point is CBC.ENCSTEP (R264). -/
def execAesEncblk (s : State) : Out :=
  .next ({ s with aes := s.aes.encrypt }.goto Instr.cbcEncstep.code)

/-- AES.DECBLK (R181) of the block in `AES_S`; its return point is CBC.DECSTEP (R264). -/
def execAesDecblk (s : State) : Out :=
  .next ({ s with aes := s.aes.decrypt }.goto Instr.cbcDecstep.code)

end Sys2Proof.Machine
end

