-- ==== Sys2Proof/Machine/Cbc.lean ====
section
/-! DEFINITION. Family CBC (42_cbc.md): CBC.INIT, CBC.ENCSTEP, CBC.DECSTEP, with the block loops of ENCODE and DECODE
(45_commands.md R262, R263, R265 g, h). -/

namespace Sys2Proof.Machine

/-- CBC.INIT (R201); PAD.APPLY follows in ENCODE, the first CBC.DECSTEP in DECODE (R264). -/
def execCbcInit (s : State) : Out :=
  let t := { s with chain := ivOf s.dkm, blkN := 0 }
  if s.curCmd = Instr.encode.code then .next (t.goto Instr.padApply.code)
  else if s.curCmd = Instr.decode.code then .next (t.goto Instr.cbcDecstep.code)
  else .fault .noMicroprogram

/-- The registers after CBC.ENCSTEP of the block `p` (R202); `CHAIN` is then the ciphertext block. -/
def State.encStep (s : State) (p : Bytes 16) : State :=
  let aes := { s.aes with s := p.xor s.chain }.encrypt
  { s with aes := aes, chain := aes.s, blkN := s.blkN + 1 }

/-- CBC.ENCSTEP (R202) of block `BLK_N` of the padded plaintext. The ciphertext block goes behind the header (R262); the
next block follows, or CTR.FORMAT after the last. -/
def execCbcEncstep (s : State) : Out :=
  s.withPlainBlock s.blkN fun p =>
    let t := s.encStep p
    t.writing .out (16 + 16 * s.blkN) t.chain.val fun u =>
      .next (u.goto (if s.blkN + 1 < paddedBlocks s.inLen then Instr.cbcEncstep.code else Instr.ctrFormat.code))

/-- The registers after CBC.DECSTEP of the block `c` (R203): `CHAIN` is the ciphertext block consumed. -/
def State.decStep (s : State) (c : Bytes 16) : State :=
  { s with aes := { s.aes with s := c }.decrypt, chain := c, blkN := s.blkN + 1 }

/-- The plaintext block of CBC.DECSTEP (R203): the deciphered block XOR the chaining value from before the step. -/
def State.decPlain (s : State) (c : Bytes 16) : Bytes 16 := (s.decStep c).aes.s.xor s.chain

/-- CBC.DECSTEP (R203) of block `BLK_N` of the ciphertext. The plaintext block goes to `OUT[16k..]` (R263); the next block
follows, or PAD.INSPECT after the last. -/
def execCbcDecstep (s : State) : Out :=
  s.withCipherBlock s.blkN fun c =>
    (s.decStep c).writing .out (16 * s.blkN) (s.decPlain c).val fun u =>
      .next (u.goto (if s.blkN + 1 < s.cipherLen / 16 then Instr.cbcDecstep.code else Instr.padInspect.code))

end Sys2Proof.Machine
end

