-- ==== Sys2Proof/Machine/Commands.lean ====
section
/-! DEFINITION. The commands DERIVE, ENCODE, DECODE (45_commands.md): the issue (R260) and what a microprogram does before
its first micro-operation (R264). The rest of a command is done by the micro-operations that follow, each by its own step. -/

namespace Sys2Proof.Machine

/-- A command issued while `STATUS.BUSY = 0` (R260); while `BUSY = 1` a write to `CMD` has no meaning (U6). -/
def State.whenIdle (s : State) (k : Out) : Out := if s.busy then .refused .accessWhileBusy else k

/-- DERIVE (R261): issue, the salt-length test, the salt. KDF.RUN, KDF.SPLIT and the end of DERIVE follow. -/
def execDerive (s : State) : Out :=
  s.whenIdle <|
    let t := s.issue Instr.derive.code Instr.kdfRun.code
    if t.inLen ≠ 8 then .next (t.raise .derivationError)
    else t.withSaltField 0 fun salt => .next { t with salt := salt }

/-- ENCODE (R262): issue. RNG.SALT, KDF.RUN, KDF.SPLIT, AES.KEYEXP, CBC.INIT, PAD.APPLY, CBC.ENCSTEP for each padded block
and CTR.FORMAT follow. -/
def execEncode (s : State) : Out :=
  s.whenIdle <| .next (s.issue Instr.encode.code Instr.rngSalt.code)

/-- DECODE (R263): issue. CTR.PARSE, KDF.RUN, KDF.SPLIT, AES.KEYEXP, CBC.INIT, CBC.DECSTEP for each block and PAD.INSPECT
follow. -/
def execDecode (s : State) : Out :=
  s.whenIdle <| .next (s.issue Instr.decode.code Instr.ctrParse.code)

end Sys2Proof.Machine
end

