-- ==== Sys2Proof/Machine/Ctr.lean ====
section
/-! DEFINITION. Family CTR (44_container.md): RNG.SALT, CTR.FORMAT, CTR.PARSE, with the end of ENCODE
(45_commands.md R262). -/

namespace Sys2Proof.Machine

/-- RNG.SALT (R240): the draw is a free input of the step; KDF.RUN follows (R264). -/
def execRngSalt (s : State) : Out :=
  .next ({ s.drawn with salt := s.nextDraw }.goto Instr.kdfRun.code)

/-- CTR.FORMAT under `cfg` (R241): `OUT[0..7] <- marker`, `OUT[8..15] <- SALT`. ENCODE then ends (R262): `OUT_LEN <- 16 +
16q` and completion. -/
def State.ctrFormat (cfg : Cfg) (s : State) : Out :=
  s.writing .out 0 cfg.marker.val fun t =>
    t.writing .out 8 s.salt.val fun u =>
      .next { u with outLen := 16 + 16 * paddedBlocks s.inLen }.complete

/-- CTR.FORMAT (R241). -/
def execCtrFormat (s : State) : Out := s.ctrFormat Config.cfg

/-- The salt field of the container goes to `SALT`; KDF.RUN follows (R264). -/
def State.takeSalt (s : State) : Out :=
  s.withSaltField 8 fun salt => .next ({ s with salt := salt }.goto Instr.kdfRun.code)

/-- CTR.PARSE under `cfg` (R242, R243): the length test, the marker test of the strict configuration only, the salt. -/
def State.ctrParse (cfg : Cfg) (s : State) : Out :=
  if s.inLen < 16 then .next (s.raise .formatError)
  else if cfg.strictMarker then
    s.reading .inp 0 8 fun m => if m = cfg.marker.val then s.takeSalt else .next (s.raise .formatError)
  else s.takeSalt

/-- CTR.PARSE (R242) in this hardware, which does not compare the marker (R243). -/
def execCtrParse (s : State) : Out := s.ctrParse Config.cfg

end Sys2Proof.Machine
end

