-- ==== Sys2Proof/Machine/HashUnit.lean ====
section
/-! DEFINITION. The hash unit: the arithmetic of SHA-256 (40_kdf.md R134), its constants (R144), the compression function
(R135), the padding (R136) and the hash (R137) over the unit's registers; HMAC (R138), the iteration (R139) and the
derivation of 48 bytes (R140) over the registers of the key-derivation engine. -/

namespace Sys2Proof.Machine

/-! ### Word functions (R134) -/

/-- `ROTR(x, n)` for `0 < n < 32`. -/
def rotr (x : Word) (n : Nat) : Word := (x >>> n) ||| (x <<< (32 - n))

/-- `Ch`. -/
def ch (x y z : Word) : Word := (x &&& y) ^^^ (~~~x &&& z)

/-- `Maj`. -/
def maj (x y z : Word) : Word := (x &&& y) ^^^ (x &&& z) ^^^ (y &&& z)

/-- `BSIG0`. -/
def bsig0 (x : Word) : Word := rotr x 2 ^^^ rotr x 13 ^^^ rotr x 22

/-- `BSIG1`. -/
def bsig1 (x : Word) : Word := rotr x 6 ^^^ rotr x 11 ^^^ rotr x 25

/-- `SSIG0`. -/
def ssig0 (x : Word) : Word := rotr x 7 ^^^ rotr x 18 ^^^ (x >>> 3)

/-- `SSIG1`. -/
def ssig1 (x : Word) : Word := rotr x 17 ^^^ rotr x 19 ^^^ (x >>> 10)

/-! ### Constants (R144) -/

/-- `K256[0..63]`. -/
def k256 : List Word :=
  [0x428a2f98, 0x71374491, 0xb5c0fbcf, 0xe9b5dba5, 0x3956c25b, 0x59f111f1, 0x923f82a4, 0xab1c5ed5]
  ++ [0xd807aa98, 0x12835b01, 0x243185be, 0x550c7dc3, 0x72be5d74, 0x80deb1fe, 0x9bdc06a7, 0xc19bf174]
  ++ [0xe49b69c1, 0xefbe4786, 0x0fc19dc6, 0x240ca1cc, 0x2de92c6f, 0x4a7484aa, 0x5cb0a9dc, 0x76f988da]
  ++ [0x983e5152, 0xa831c66d, 0xb00327c8, 0xbf597fc7, 0xc6e00bf3, 0xd5a79147, 0x06ca6351, 0x14292967]
  ++ [0x27b70a85, 0x2e1b2138, 0x4d2c6dfc, 0x53380d13, 0x650a7354, 0x766a0abb, 0x81c2c92e, 0x92722c85]
  ++ [0xa2bfe8a1, 0xa81a664b, 0xc24b8b70, 0xc76c51a3, 0xd192e819, 0xd6990624, 0xf40e3585, 0x106aa070]
  ++ [0x19a4c116, 0x1e376c08, 0x2748774c, 0x34b0bcb5, 0x391c0cb3, 0x4ed8aa4a, 0x5b9cca4f, 0x682e6ff3]
  ++ [0x748f82ee, 0x78a5636f, 0x84c87814, 0x8cc70208, 0x90befffa, 0xa4506ceb, 0xbef9a3f7, 0xc67178f2]

/-- `IV256[0..7]`. -/
def iv256 : ShaWords :=
  ⟨0x6a09e667, 0xbb67ae85, 0x3c6ef372, 0xa54ff53a, 0x510e527f, 0x9b05688c, 0x1f83d9ab, 0x5be0cd19⟩

/-! ### Compression (R135) -/

/-- Words 0 to 15 of the message schedule: the block, 4 bytes a word, most significant first (R65 a). -/
def blockWords (blk : Bytes 64) : List Word :=
  (List.range 16).map fun t =>
    wordBE (blk.byte (4 * t)) (blk.byte (4 * t + 1)) (blk.byte (4 * t + 2)) (blk.byte (4 * t + 3))

/-- Word `t`, 16 to 63, from the words before it. -/
def scheduleWord (w : List Word) (t : Nat) : Word :=
  ssig1 (w.getD (t - 2) 0) + w.getD (t - 7) 0 + ssig0 (w.getD (t - 15) 0) + w.getD (t - 16) 0

/-- The `n` schedule words after word 15, on top of the words there are. -/
def extendSchedule : Nat → List Word → List Word
  | 0, w => w
  | n + 1, w => extendSchedule n (w ++ [scheduleWord w w.length])

theorem length_extendSchedule (n : Nat) (w : List Word) : (extendSchedule n w).length = w.length + n := by
  induction n generalizing w with
  | zero => rfl
  | succ n ih => simp [extendSchedule, ih]; omega

/-- `SHA_W[0..63]` of a block. -/
def schedule (blk : Bytes 64) : Vec Word 64 :=
  ⟨extendSchedule 48 (blockWords blk), by simp [length_extendSchedule, blockWords]⟩

/-- Round `t`: every right-hand side uses the values from before the round. -/
def shaRound (w : Vec Word 64) (v : ShaWords) (t : Nat) : ShaWords :=
  let t1 := v.h + bsig1 v.e + ch v.e v.f v.g + k256.getD t 0 + w.at 0 t
  let t2 := bsig0 v.a + maj v.a v.b v.c
  { a := t1 + t2, b := v.a, c := v.b, d := v.c, e := v.d + t1, f := v.e, g := v.f, h := v.g }

/-- `+32` on each of the eight words. -/
def ShaWords.add (x y : ShaWords) : ShaWords :=
  ⟨x.a + y.a, x.b + y.b, x.c + y.c, x.d + y.d, x.e + y.e, x.f + y.f, x.g + y.g, x.h + y.h⟩

/-- Round `t` on the unit's registers. -/
def ShaRegs.round (r : ShaRegs) (t : Nat) : ShaRegs :=
  { r with v := shaRound r.w r.v t, t := BitVec.ofNat 6 t }

/-- SHA256.COMPRESS of the block in `blk` (R135). -/
def ShaRegs.compress (r : ShaRegs) : ShaRegs :=
  let r1 := { r with w := schedule r.blk, v := r.h }
  let r2 := (List.range 64).foldl ShaRegs.round r1
  { r2 with h := r2.h.add r2.v }

/-! ### The hash of a message (R136, R137) -/

/-- `SHA256_PAD(n)` (R136), `k = (55 - n) mod 64` with the non-negative remainder. -/
def shaPad (n : Nat) : List Byte :=
  0x80 :: (List.replicate ((55 + 64 - n % 64) % 64) 0 ++ (be64 (BitVec.ofNat 64 (8 * n))).val)

/-- Block `b` of a message: bytes `64b` to `64b + 63`. -/
def msgBlock (p : List Byte) (b : Nat) : Bytes 64 := Vec.ofFn 64 fun k => p.getD (64 * b + k) 0

/-- SHA256.HASH of the message in `msg` (R137). -/
def ShaRegs.hash (r : ShaRegs) : ShaRegs :=
  let p := r.msg ++ shaPad r.msg.length
  (List.range (p.length / 64)).foldl (fun r b => { r with blk := msgBlock p b }.compress) { r with h := iv256 }

/-- The digest: the chaining words, each most significant byte first (R137, R65 a). -/
def ShaWords.digest (x : ShaWords) : Bytes 32 :=
  Bytes.ofList 32 ((be32 x.a).val ++ (be32 x.b).val ++ (be32 x.c).val ++ (be32 x.d).val
    ++ (be32 x.e).val ++ (be32 x.f).val ++ (be32 x.g).val ++ (be32 x.h).val)

/-! ### The pseudorandom function (R138) -/

/-- 64 bytes of one value, XORed onto a 64-byte block. -/
def padKey (k0 : Bytes 64) (b : Byte) : Bytes 64 := k0.xor ⟨List.replicate 64 b, by simp⟩

/-- The hash unit after it hashed `m`. -/
def ShaRegs.hashOf (r : ShaRegs) (m : List Byte) : ShaRegs := { r with msg := m }.hash

/-- HMAC with the key `key` of the text in `text` (R138); the result is the digest left in `SHA_H`. -/
def KdfRegs.hmac (r : KdfRegs) (key : List Byte) : KdfRegs :=
  let sha1 := if 64 < key.length then r.sha.hashOf key else r.sha
  let k0 := Bytes.ofList 64 (if 64 < key.length then sha1.h.digest.val else key)
  let sha2 := sha1.hashOf ((padKey k0 0x36).val ++ r.text)
  let sha3 := sha2.hashOf ((padKey k0 0x5c).val ++ sha2.h.digest.val)
  { r with k0 := k0, sha := sha3 }

/-! ### The iteration (R139) and the derivation (R140) -/

/-- `KDF_J` is `j`, and HMAC of `text` goes to `KDF_U`. -/
def KdfRegs.prf (r : KdfRegs) (key : List Byte) (j : Word) (text : List Byte) : KdfRegs :=
  let r1 := { r with j := j, text := text }.hmac key
  { r1 with u := r1.sha.h.digest }

/-- `n` more turns of the loop of R139, the next one at `j`. -/
def KdfRegs.iterate (key : List Byte) : Nat → Word → KdfRegs → KdfRegs
  | 0, _, r => r
  | n + 1, j, r =>
    let r1 := r.prf key j r.u.val
    KdfRegs.iterate key n (j + 1) { r1 with t := r1.t.xor r1.u }

/-- PBKDF2.F of block `KDF_I` (R139). -/
def KdfRegs.blockF (cfg : Cfg) (key : List Byte) (salt : Bytes 8) (r : KdfRegs) : KdfRegs :=
  let r1 := r.prf key 1 (salt.val ++ (be32 r.i).val)
  KdfRegs.iterate key (cfg.iter - 1) 2 { r1 with t := r1.u }

/-- KDF.RUN (R140): the registers after both blocks, and the 48 bytes for `DKM`. -/
def KdfRegs.run (cfg : Cfg) (key : List Byte) (salt : Bytes 8) (r : KdfRegs) : KdfRegs × Bytes 48 :=
  let r1 := { r with i := 1 }.blockF cfg key salt
  let r2 := { r1 with i := 2 }.blockF cfg key salt
  (r2, r1.t.append (r2.t.slice 0 16))

end Sys2Proof.Machine
end

