-- ==== Sys2Proof/Machine/Kdf.lean ====
section
/-! DEFINITION. Family KDF (40_kdf.md): SHA256.COMPRESS, SHA256.HASH, HMAC, PBKDF2.F, KDF.RUN, KDF.SPLIT. A nested
micro-operation leaves to its single return point (45_commands.md R264). -/

namespace Sys2Proof.Machine

/-- SHA256.COMPRESS (R135); its return point is SHA256.HASH. -/
def execSha256Compress (s : State) : Out :=
  .next ({ s with kdf := { s.kdf with sha := s.kdf.sha.compress } }.goto Instr.sha256Hash.code)

/-- SHA256.HASH (R137); its return point is HMAC. -/
def execSha256Hash (s : State) : Out :=
  .next ({ s with kdf := { s.kdf with sha := s.kdf.sha.hash } }.goto Instr.hmac.code)

/-- HMAC (R138) under the password; its return point is PBKDF2.F. -/
def execHmac (s : State) : Out :=
  s.withPassword fun pw => .next ({ s with kdf := s.kdf.hmac pw }.goto Instr.pbkdf2F.code)

/-- PBKDF2.F (R139) of block `KDF_I`; its return point is KDF.RUN. -/
def execPbkdf2F (s : State) : Out :=
  s.withPassword fun pw => .next ({ s with kdf := s.kdf.blockF Config.cfg pw s.salt }.goto Instr.kdfRun.code)

/-- KDF.RUN (R140): `DKM` gets its 48 bytes; KDF.SPLIT follows (R264). -/
def execKdfRun (s : State) : Out :=
  s.withPassword fun pw =>
    let res := s.kdf.run Config.cfg pw s.salt
    .next ({ s with kdf := res.1, dkm := res.2 }.goto Instr.kdfSplit.code)

/-- The end of DERIVE (45_commands.md R261): `OUT[0..47] <- DKM`, `OUT_LEN <- 48`, completion. -/
def State.deriveEnd (s : State) : Out :=
  s.writing .out 0 s.dkm.val fun t => .next { t with outLen := 48 }.complete

/-- KDF.SPLIT (R141) moves no data, `KEY` and `IV` being views. What follows is the command's (R264): the end of DERIVE,
AES.KEYEXP in ENCODE, the ciphertext-length test and AES.KEYEXP in DECODE. -/
def execKdfSplit (s : State) : Out :=
  if s.curCmd = Instr.derive.code then s.deriveEnd
  else if s.curCmd = Instr.encode.code then .next (s.goto Instr.aesKeyexp.code)
  else if s.curCmd = Instr.decode.code then
    if s.badCipherLen then .next (s.raise .paddingError) else .next (s.goto Instr.aesKeyexp.code)
  else .fault .noMicroprogram

end Sys2Proof.Machine
end

