-- ==== Sys2Proof/Machine/Pad.lean ====
section
/-! DEFINITION. Family PAD (43_padding.md): PAD.APPLY, PAD.INSPECT, with the end of DECODE (45_commands.md R263). -/

namespace Sys2Proof.Machine

/-- PAD.APPLY (R221): the pad length is fixed; the padded blocks are presented to CBC.ENCSTEP one by one
(`State.withPlainBlock`). `IN` and `OUT` are not written. That `PAD_LEN` takes `N` is DEDUCED (log entry 11). -/
def execPadApply (s : State) : Out :=
  .next ({ s with padLen := BitVec.ofNat 5 (padLength s.inLen) }.goto Instr.cbcEncstep.code)

/-- PAD.INSPECT (R222) on `OUT[0..L-1]`: `PAD_OK`, and `PAD_LEN` when the padding is valid. DECODE then ends (R263):
PaddingError, or `OUT_LEN <- L - PAD_LEN` and completion. -/
def execPadInspect (s : State) : Out :=
  s.reading .out 0 s.cipherLen fun d =>
    match padCheck d with
    | none => .next ({ s with padOk := false }.raise .paddingError)
    | some n =>
      let t := { s with padOk := true, padLen := BitVec.ofNat 5 n }
      .next { t with outLen := s.cipherLen - t.padLen.toNat }.complete

end Sys2Proof.Machine
end

