-- ==== Sys2Proof/Machine/Dispatch.lean ====
section
/-! DEFINITION. The dispatch: one arm per instruction. -/

namespace Sys2Proof.Machine

def exec (i : Instr) (s : State) : Host.Outcome State Fault Refusal :=
  match i with
  -- commands (45_commands.md)
  | .derive => Sys2Proof.Machine.execDerive s
  | .encode => Sys2Proof.Machine.execEncode s
  | .decode => Sys2Proof.Machine.execDecode s
  -- family KDF (40_kdf.md)
  | .kdfRun => Sys2Proof.Machine.execKdfRun s
  | .pbkdf2F => Sys2Proof.Machine.execPbkdf2F s
  | .hmac => Sys2Proof.Machine.execHmac s
  | .sha256Hash => Sys2Proof.Machine.execSha256Hash s
  | .sha256Compress => Sys2Proof.Machine.execSha256Compress s
  | .kdfSplit => Sys2Proof.Machine.execKdfSplit s
  -- family AES (41_aes.md)
  | .aesKeyexp => Sys2Proof.Machine.execAesKeyexp s
  | .aesEncblk => Sys2Proof.Machine.execAesEncblk s
  | .aesDecblk => Sys2Proof.Machine.execAesDecblk s
  -- family CBC (42_cbc.md)
  | .cbcInit => Sys2Proof.Machine.execCbcInit s
  | .cbcEncstep => Sys2Proof.Machine.execCbcEncstep s
  | .cbcDecstep => Sys2Proof.Machine.execCbcDecstep s
  -- family PAD (43_padding.md)
  | .padApply => Sys2Proof.Machine.execPadApply s
  | .padInspect => Sys2Proof.Machine.execPadInspect s
  -- family CTR (44_container.md)
  | .rngSalt => Sys2Proof.Machine.execRngSalt s
  | .ctrFormat => Sys2Proof.Machine.execCtrFormat s
  | .ctrParse => Sys2Proof.Machine.execCtrParse s

end Sys2Proof.Machine
end

