-- ==== Sys2Proof/Machine/HostOps.lean ====
section
/-! DEFINITION. The outside world (45_commands.md section 4): HOST's accesses to the register file (10_state.md R29) and the
buffers (R33, R267), and whose turn it is: SEQ's, HOST's or the reset input's (R20, R30, R71, R340). -/

namespace Sys2Proof.Machine

/-- HOST gets `v` from an access. -/
def State.give (s : State) (v : HostValue) : State := { s with seen := v :: s.seen }

/-- A length `v` is written, the state then being `t` (R29): a value above the capacity is refused (U4). -/
def writeLen (cap v : Nat) (t : State) : Out :=
  if v ≤ cap then .next t else .refused .aboveCapacity

/-- HOST writes `v` to a register other than `CMD` while `BUSY = 0` (R29, R267). -/
def State.writeRegIdle (s : State) (no v : Nat) : Out :=
  match no with
  | 0x02 => writeLen s.caps.pwMax v { s with pwLen := v }
  | 0x03 => writeLen s.caps.inMax v { s with inLen := v }
  | 0x01 | 0x04 | 0x08 | 0x09 | 0x0A | 0x0B | 0x0C | 0x0D | 0x0E | 0x0F => .refused .accessForbidden
  | _ => .refused .unassignedRegister

/-- `CFG_FLAGS`: bit 0 is `STRICT_MARKER`, bits 7:1 are 0 (R29, R103). -/
def cfgFlags (cfg : Cfg) : Nat := if cfg.strictMarker then 1 else 0

/-- What a read of a register gives while `BUSY = 0` (R29); none for a number with no register (U5). A read of `CMD`, which
stores nothing, gives a free value (U3, log entry 6). -/
def State.regValue (cfg : Cfg) (s : State) (no : Nat) : Option HostValue :=
  match no with
  | 0x00 => some (.reg no (Config.cmdRead s.seen.length).toNat)
  | 0x01 => some (.reg no (Status.visible s.status).toNat)
  | 0x02 => some (.reg no s.pwLen)
  | 0x03 => some (.reg no s.inLen)
  | 0x04 => some (.reg no s.outLen)
  | 0x08 => some (.reg no cfg.iter)
  | 0x09 => some (.reg no cfg.dkLen)
  | 0x0A => some (.reg no cfg.keyLen)
  | 0x0B => some (.reg no cfg.ivLen)
  | 0x0C => some (.reg no cfg.saltLen)
  | 0x0D => some (.reg no cfg.block)
  | 0x0E => some (.reg no (cfgFlags cfg))
  | 0x0F => some (.bytes cfg.marker.val)
  | _ => none

/-- HOST reads a register: `STATUS` always, the others while `BUSY = 0` (R267). -/
def State.hostReadReg (s : State) (no : Nat) : Out :=
  if s.busy ∧ no ≠ 0x01 then .refused .accessWhileBusy
  else
    match s.regValue Config.cfg no with
    | some v => .next (s.give v)
    | none => .refused .unassignedRegister

/-- HOST writes bytes to `PW` or `IN` while `BUSY = 0` (R33, R267). -/
def State.hostWriteBuf (s : State) (sp : Space) (off : Nat) (bs : List Byte) : Out :=
  if s.busy then .refused .accessWhileBusy
  else if sp = .out then .refused .accessForbidden
  else if off + bs.length ≤ s.caps.cap sp then .next (s.store sp off bs)
  else .refused .aboveCapacity

/-- HOST reads `n` bytes of `OUT` from `off`: only below `OUT_LEN`, and only when `DONE = 1` and `ERR = 0` (R267). `PW` and
`IN` are never readable (R33, R74). -/
def State.hostReadBuf (s : State) (sp : Space) (off n : Nat) : Out :=
  if s.busy then .refused .accessWhileBusy
  else if sp = .out ∧ s.done ∧ s.err = 0 ∧ off + n ≤ s.outLen then .next (s.give (.bytes (s.read .out off n)))
  else .refused .accessForbidden

/-- Whose turn it is, and what it does: an instruction to execute in a state, or a step that is no instruction. -/
inductive Turn where
  | run (i : Instr) (s : State)
  | took (o : Out)

/-- SEQ's turn: the micro-operation whose code `PHASE` holds (R24). In IDLE, DONE_OK and DONE_ERR SEQ has no step of its
own and stays (R30). -/
def State.seqTurn (s : State) : Turn :=
  if s.running then
    match decode .uop [s.phase] with
    | .ok (i, _) => .run i s
    | .error _ => .took (.refused .reservedPhase)
  else .took (.next s)

/-- A write of `v` to `CMD` (R95, R260): a command to execute; refused while `BUSY = 1` (U6) and for a reserved code (U1). -/
def State.cmdTurn (s : State) (v : Nat) : Turn :=
  if s.busy then .took (.refused .accessWhileBusy)
  else if v < 256 then
    match decode .cmd [BitVec.ofNat 8 v] with
    | .ok (i, _) => .run i s
    | .error _ => .took (.refused .reservedCommand)
  else .took (.refused .reservedCommand)

/-- The turn of a state (R20, R71): the outside world's next move, if there is one; else SEQ's. HOST standing still (`pass`,
or `wait` before `DONE = 1`) is SEQ's turn too. -/
def State.turn (s : State) : Turn :=
  match s.host with
  | [] => s.seqTurn
  | .pass :: rest => { s with host := rest }.seqTurn
  | .wait :: rest => if s.done then .took ({ s with host := rest }.hostReadReg 0x01) else s.seqTurn
  | .reset :: rest => .took (.next { s with host := rest }.resetEvent)
  | .writeReg 0 v :: rest => { s with host := rest }.cmdTurn v
  | .writeReg no v :: rest =>
    if s.busy then .took (.refused .accessWhileBusy) else .took ({ s with host := rest }.writeRegIdle no v)
  | .readReg no :: rest => .took ({ s with host := rest }.hostReadReg no)
  | .writeBuf sp off bs :: rest => .took ({ s with host := rest }.hostWriteBuf sp off bs)
  | .readBuf sp off n :: rest => .took ({ s with host := rest }.hostReadBuf sp off n)
  | .readOut :: rest => .took ({ s with host := rest }.hostReadBuf .out 0 s.outLen)

/-- The command whose microprogram holds a micro-operation (45_commands.md R264): DECODE for what only DECODE runs, ENCODE
for the others. -/
def commandOf (code : Byte) : Byte :=
  if code = Instr.ctrParse.code ∨ code = Instr.cbcDecstep.code ∨ code = Instr.aesDecblk.code ∨ code = Instr.padInspect.code
  then Instr.decode.code else Instr.encode.code

/-- `LOAD sp, bytes` of R105: the bytes from offset 0, then their count to the length register. -/
def HostMove.load (sp : Space) (bs : List Byte) : List HostMove :=
  [.writeBuf sp 0 bs, .writeReg (if sp = .pw then 0x02 else 0x03) bs.length]

/-- `CMD` of R105: the code of a command to register `0x00`. -/
def HostMove.cmd (i : Instr) : HostMove := .writeReg 0x00 i.code.toNat

end Sys2Proof.Machine
end

