-- ==== Sys2Proof/Machine/Step.lean ====
section
/-! DEFINITION. One step: the agent whose turn it is moves (Machine/HostOps.lean). A micro-operation at `PHASE` and a command
written to `CMD` are executed by `exec`, which also moves `PHASE`. -/

namespace Sys2Proof.Machine

def step (s : State) : Host.Outcome State Fault Refusal :=
  match s.turn with
  | .run i t => exec i t
  | .took o => o

/-- The word `w` put where the next step fetches: a micro-operation code in `PHASE`, with `BUSY = 1` and a command whose
microprogram holds it, HOST standing still; any other word as HOST's next write to `CMD`, SEQ being idle (log entry 13). -/
def State.withFetchWord (s : State) (_nbits w : Nat) : State :=
  if w < 256 ∧ (findRow uopRows (BitVec.ofNat 8 w)).isSome then
    { s with phase := BitVec.ofNat 8 w, status := Status.put true false 0 s.status,
             curCmd := commandOf (BitVec.ofNat 8 w), host := .pass :: s.host }
  else
    { s with phase := if s.busy || s.running then phaseIdle else s.phase,
             status := if s.busy || s.running then 0 else s.status,
             host := .writeReg 0x00 w :: s.host }

end Sys2Proof.Machine
end

