-- ==== Sys2Proof/Machine/Functions.lean ====
section
/-! DEFINITION. The pure functions of the spec, those its rules write in capitals (00_scope.md R14): values in, values out, no
registers. Claims compare the machine with them. -/

namespace Sys2Proof.Machine

/-! ### SHA-256 (40_kdf.md R135 to R137) -/

/-- The working variables before round `t`. -/
def shaVars (w : Vec Word 64) (h : ShaWords) : Nat → ShaWords
  | 0 => h
  | t + 1 => shaRound w (shaVars w h t) t

/-- The chaining value after the block `blk` (R135). -/
def shaCompress (h : ShaWords) (blk : Bytes 64) : ShaWords := h.add (shaVars (schedule blk) h 64)

/-- The chaining value after the first `b` blocks of the padded message `p` (R137). -/
def shaChain (p : List Byte) : Nat → ShaWords
  | 0 => iv256
  | b + 1 => shaCompress (shaChain p b) (msgBlock p b)

/-- A message and its padding (R136). -/
def shaPadded (m : List Byte) : List Byte := m ++ shaPad m.length

/-- `SHA256_HASH(m)` (R137). -/
def sha256 (m : List Byte) : Bytes 32 := (shaChain (shaPadded m) ((shaPadded m).length / 64)).digest

/-! ### HMAC and PBKDF2 (R138 to R140) -/

/-- `HMAC_K0` of a key (R138). -/
def hmacKey (key : List Byte) : Bytes 64 := Bytes.ofList 64 (if 64 < key.length then (sha256 key).val else key)

/-- `HMAC(K, x)` (R138). -/
def hmacSha256 (key x : List Byte) : Bytes 32 :=
  sha256 ((padKey (hmacKey key) 0x5c).val ++ (sha256 ((padKey (hmacKey key) 0x36).val ++ x)).val)

/-- `U_(n+1)` of the chain whose first text is `x` (R139). -/
def prfChain (key x : List Byte) : Nat → Bytes 32
  | 0 => hmacSha256 key x
  | n + 1 => hmacSha256 key (prfChain key x n).val

/-- `U_1 XOR ... XOR U_(n+1)` (R139). -/
def prfXor (key x : List Byte) : Nat → Bytes 32
  | 0 => prfChain key x 0
  | n + 1 => (prfXor key x n).xor (prfChain key x (n + 1))

/-- `F(P, SALT, c, i)` (R139). -/
def pbkdf2F (key : List Byte) (salt : Bytes 8) (c : Nat) (i : Word) : Bytes 32 :=
  prfXor key (salt.val ++ (be32 i).val) (c - 1)

/-- The 48 bytes of key material of a password and a salt (R130, R140). -/
def deriveKey (cfg : Cfg) (key : List Byte) (salt : Bytes 8) : Bytes 48 :=
  (pbkdf2F key salt cfg.iter 1).append ((pbkdf2F key salt cfg.iter 2).slice 0 16)

/-! ### The block cipher (41_aes.md R180, R181) -/

/-- The cipher state after round `q` of encryption. -/
def encState (rk : Vec (Bytes 16) 15) (x : Bytes 16) : Nat → Bytes 16
  | 0 => addRoundKey (rk.at (Bytes.zero 16) 0) x
  | q + 1 => addRoundKey (rk.at (Bytes.zero 16) (q + 1)) (mixColumns (shiftRows (subBytes (encState rk x q))))

/-- `AES_ENCBLK(RK, x)` (R180). -/
def aesEncBlk (rk : Vec (Bytes 16) 15) (x : Bytes 16) : Bytes 16 :=
  addRoundKey (rk.at (Bytes.zero 16) 14) (shiftRows (subBytes (encState rk x 13)))

/-- The cipher state after `n` rounds of decryption, the last of them with round key `14 - n`. -/
def decState (rk : Vec (Bytes 16) 15) (y : Bytes 16) : Nat → Bytes 16
  | 0 => addRoundKey (rk.at (Bytes.zero 16) 14) y
  | n + 1 => invMixColumns (addRoundKey (rk.at (Bytes.zero 16) (13 - n)) (invSubBytes (invShiftRows (decState rk y n))))

/-- `AES_DECBLK(RK, y)` (R181). -/
def aesDecBlk (rk : Vec (Bytes 16) 15) (y : Bytes 16) : Bytes 16 :=
  addRoundKey (rk.at (Bytes.zero 16) 0) (invSubBytes (invShiftRows (decState rk y 13)))

/-! ### Chaining (42_cbc.md R204, R205): `q` blocks from the front of the data -/

/-- The ciphertext of `q` blocks of `m`, the chaining value being `chain`. -/
def cbcEncBlocks (rk : Vec (Bytes 16) 15) : Bytes 16 → Nat → List Byte → List Byte
  | _, 0, _ => []
  | chain, q + 1, m =>
    let c := aesEncBlk rk ((Bytes.ofList 16 m).xor chain)
    c.val ++ cbcEncBlocks rk c q (m.drop 16)

/-- The plaintext of `q` blocks of `c`, the chaining value being `chain`. -/
def cbcDecBlocks (rk : Vec (Bytes 16) 15) : Bytes 16 → Nat → List Byte → List Byte
  | _, 0, _ => []
  | chain, q + 1, c =>
    ((aesDecBlk rk (Bytes.ofList 16 c)).xor chain).val ++ cbcDecBlocks rk (Bytes.ofList 16 c) q (c.drop 16)

/-- `CBC_ENC(KEY, IV, m)` (R204), defined there for a length of `16 * q`, `q >= 1`. On any other length, which R206 leaves
undefined, it takes the whole blocks and drops the rest (DESIGN CHOICE, log entry 22). -/
def cbcEnc (key : Bytes 32) (iv : Bytes 16) (m : List Byte) : List Byte :=
  cbcEncBlocks (aesKeyExp key) iv (m.length / 16) m

/-- `CBC_DEC(KEY, IV, c)` (R205), defined there for a length of `16 * q`, `q >= 1`. On any other length, which R206 leaves
undefined, it takes the whole blocks and drops the rest (DESIGN CHOICE, log entry 22). -/
def cbcDec (key : Bytes 32) (iv : Bytes 16) (c : List Byte) : List Byte :=
  cbcDecBlocks (aesKeyExp key) iv (c.length / 16) c

/-! ### Padding (43_padding.md R221, R222) -/

/-- `PAD_APPLY(m)` (R221). -/
def padApply (m : List Byte) : List Byte :=
  m ++ List.replicate (padLength m.length) (BitVec.ofNat 8 (padLength m.length))

/-- `PAD_INSPECT(d)` (R222): the message, when the padding is valid. -/
def padInspect (d : List Byte) : Option (List Byte) := (padCheck d).map fun n => d.take (d.length - n)

/-! ### The commands as functions (45_commands.md R261 to R263, R268) -/

/-- DERIVE of a password and a salt operand of any length (R261). -/
def deriveFn (cfg : Cfg) (pw salt : List Byte) : Except Err (List Byte) :=
  if salt.length ≠ 8 then .error .derivationError
  else .ok (deriveKey cfg pw (Bytes.ofList 8 salt)).val

/-- ENCODE of a password and a plaintext with the draw `salt` (R262). -/
def encodeFn (cfg : Cfg) (pw text : List Byte) (salt : Bytes 8) : List Byte :=
  let dkm := deriveKey cfg pw salt
  cfg.marker.val ++ salt.val ++ cbcEnc (keyOf dkm) (ivOf dkm) (padApply text)

/-- DECODE of a password and a container (R263). -/
def decodeFn (cfg : Cfg) (pw c : List Byte) : Except Err (List Byte) :=
  if c.length < 16 then .error .formatError
  else if cfg.strictMarker ∧ c.take 8 ≠ cfg.marker.val then .error .formatError
  else
    let body := c.drop 16
    let dkm := deriveKey cfg pw (Bytes.ofList 8 (c.drop 8))
    if body.length = 0 ∨ body.length % 16 ≠ 0 then .error .paddingError
    else
      match padInspect (cbcDec (keyOf dkm) (ivOf dkm) body) with
      | none => .error .paddingError
      | some m => .ok m

/-- A command as one atomic function of the code, the password, the input and the draw (R268): the error, or the output.
None for a micro-operation. -/
def commandFn (cfg : Cfg) (i : Instr) (pw input : List Byte) (draw : Bytes 8) : Option (Except Err (List Byte)) :=
  match i with
  | .derive => some (deriveFn cfg pw input)
  | .encode => some (.ok (encodeFn cfg pw input draw))
  | .decode => some (decodeFn cfg pw input)
  | .kdfRun | .pbkdf2F | .hmac | .sha256Hash | .sha256Compress | .kdfSplit => none
  | .aesKeyexp | .aesEncblk | .aesDecblk => none
  | .cbcInit | .cbcEncstep | .cbcDecstep => none
  | .padApply | .padInspect => none
  | .rngSalt | .ctrFormat | .ctrParse => none

end Sys2Proof.Machine
end

