-- ==== Sys2Proof/Safety.lean ====
section
/-! DEFINITION. What claims speak about: the operands and the result of a command as HOST sees them, the invariant of the
machine, and how many steps a command takes. -/

namespace Sys2Proof.Machine

/-! ### A command's operands and result -/

/-- The password operand `PW[0..PW_LEN-1]` (30_encoding.md R95). -/
def State.password (s : State) : List Byte := s.read .pw 0 s.pwLen

/-- The input operand `IN[0..IN_LEN-1]` (R95). -/
def State.input (s : State) : List Byte := s.read .inp 0 s.inLen

/-- What HOST may read of the output: `OUT[0..OUT_LEN-1]` (45_commands.md R267). -/
def State.output (s : State) : List Byte := s.read .out 0 s.outLen

/-- Every byte of every buffer, but `n` bytes of `OUT` from `off`, reads in `t` as it does in `s`; where the command has
ended in `t`, that holds of `OUT` below `OUT_LEN` only (93_implementation_defined.md U7, U9). -/
def State.KeepsBytesBut (s t : State) (off n : Nat) : Prop :=
  ∀ sp a, ¬ (sp = .out ∧ off ≤ a ∧ a < off + n) → (sp = .out → t.running = true ∨ a < t.outLen) →
    t.readByte sp a = s.readByte sp a

/-- `t` is `s` but for what the end of a command leaves unspecified: the private registers of U8 and the bytes of `OUT`
(which a statement names beside this one). -/
def State.SameButPrivate (s t : State) : Prop :=
  t = { s with salt := t.salt, dkm := t.dkm, chain := t.chain, kdf := t.kdf, aes := t.aes, padLen := t.padLen,
               blkN := t.blkN, out := t.out, lapses := t.lapses }

/-- The lengths lie within the capacities, and the capacities meet R10. -/
structure State.Sized (s : State) : Prop where
  caps : s.caps.wellFormed = true
  pw : s.pwLen ≤ s.caps.pwMax
  inp : s.inLen ≤ s.caps.inMax

/-- The command has ended and HOST sees the result `r`: `STATUS` with its error code, and the output (R266, R306). -/
def State.Shows (s : State) (r : Except Err (List Byte)) : Prop :=
  s.busy = false ∧ s.done = true ∧
    match r with
    | .ok out => s.err = 0 ∧ s.phase = phaseDoneOk ∧ s.outLen = out.length ∧ s.output = out
    | .error e => s.err = e.code ∧ s.phase = phaseDoneErr ∧ s.outLen = 0

/-- `n` steps, stopping at the first fault or refusal. -/
def run : Nat → State → Out
  | 0, s => .next s
  | n + 1, s =>
    match step s with
    | .next t => run n t
    | .fault f => .fault f
    | .refused r => .refused r

/-- Steps from the write to `CMD` to the end, when the command succeeds (45_commands.md R264, R265 g, h): an error ends it
earlier, and the machine then stays where it is. -/
def stepsOf (i : Instr) (inLen : Nat) : Nat :=
  match i with
  | .derive => 3
  | .encode => 8 + paddedBlocks inLen
  | .decode => 7 + (inLen - 16) / 16
  | .kdfRun | .pbkdf2F | .hmac | .sha256Hash | .sha256Compress | .kdfSplit => 1
  | .aesKeyexp | .aesEncblk | .aesDecblk => 1
  | .cbcInit | .cbcEncstep | .cbcDecstep => 1
  | .padApply | .padInspect => 1
  | .rngSalt | .ctrFormat | .ctrParse => 1

/-! ### The invariant -/

/-- The KDF micro-operations, which every microprogram holds (R264). -/
def kdfCodes : List Byte := [0x10, 0x11, 0x12, 0x13, 0x14, 0x15]

/-- The positions of a command's microprogram (R264), nested micro-operations included. -/
def microprogram (cmd : Byte) : List Byte :=
  if cmd = 0x01 then kdfCodes
  else if cmd = 0x02 then 0x50 :: kdfCodes ++ [0x20, 0x30, 0x40, 0x31, 0x21, 0x51]
  else if cmd = 0x03 then 0x52 :: kdfCodes ++ [0x20, 0x30, 0x32, 0x22, 0x41]
  else []

/-- `PHASE`, `CUR_CMD`, `STATUS` and `OUT_LEN` fit together (10_state.md R24, R26, R27, R30; 60_exceptions.md R304, R306):
the machine is idle since reset, or done, or failed with an error its command can raise, or inside its command's
microprogram. -/
def State.Placed (s : State) : Prop :=
  (s.phase = phaseIdle ∧ s.status = 0x00 ∧ s.curCmd = 0x00 ∧ s.outLen = 0)
    ∨ (s.phase = phaseDoneOk ∧ s.status = 0x02 ∧ s.curCmd ∈ [0x01, 0x02, 0x03])
    ∨ (s.phase = phaseDoneErr ∧ s.outLen = 0
        ∧ ((s.curCmd = 0x01 ∧ s.status = 0x0e) ∨ (s.curCmd = 0x03 ∧ s.status ∈ [0x06, 0x0a])))
    ∨ (s.phase ∈ microprogram s.curCmd ∧ s.status = 0x01 ∧ s.outLen = 0)

/-- What a command inside its microprogram relies on: the lengths its earlier steps tested and the range of the block index
(45_commands.md R261 to R263, R265 g, h). -/
structure State.Underway (s : State) : Prop where
  derive : s.status = 0x01 → s.curCmd = 0x01 → s.inLen = 8
  parsed : s.status = 0x01 → s.curCmd = 0x03 → s.phase ≠ 0x52 → 16 ≤ s.inLen
  blocks : s.status = 0x01 → s.curCmd = 0x03 → s.phase ∈ [0x20, 0x30, 0x32, 0x22, 0x41] → s.badCipherLen = false
  encIndex : s.status = 0x01 → s.curCmd = 0x02 → s.phase ∈ [0x40, 0x31, 0x21] → s.blkN < paddedBlocks s.inLen
  decIndex : s.status = 0x01 → s.curCmd = 0x03 → s.phase ∈ [0x32, 0x22] → s.blkN < s.cipherLen / 16

/-- A buffer's cells are in canonical form and lie below its capacity (20_memory.md R60). -/
def State.MemOk (s : State) (sp : Space) : Prop := (s.mem sp).wf = true ∧ (s.mem sp).below (s.caps.cap sp) = true

/-- The invariant of the machine. -/
structure State.Inv (s : State) : Prop where
  sized : s.Sized
  outLen : s.outLen ≤ s.caps.outMax
  placed : s.Placed
  underway : s.Underway
  mem : ∀ sp, s.MemOk sp

end Sys2Proof.Machine
end

