-- ==== Sys2Proof/Certificates/Slice0/Obligations.lean ====
section
/-! DEFINITION. The statements for the provers. Each docstring names the rule of spec/ it formalises. Where a result is
given as `t = { s with f := t.f, … }`, every field of the state that is not listed is unchanged; `SameButPrivate` says the
same of the end of a command, which leaves the private registers and `OUT` from `OUT_LEN` on unspecified (U7, U8, U9). -/

open Sys2Proof Sys2Proof.Machine

/-! ### Encodings (30_encoding.md) -/

/-- R95, R96: the whole opcode map, word by word. -/
def Obligations.OpcodeMapDecodes : Prop :=
  ([0x01, 0x02, 0x03].map (decodeTableWord 8) = [some Instr.derive, some Instr.encode, some Instr.decode])
    ∧ ([0x10, 0x11, 0x12, 0x13, 0x14, 0x15].map (decodeTableWord 8)
        = [some .kdfRun, some .pbkdf2F, some .hmac, some .sha256Hash, some .sha256Compress, some .kdfSplit])
    ∧ ([0x20, 0x21, 0x22].map (decodeTableWord 8) = [some Instr.aesKeyexp, some .aesEncblk, some .aesDecblk])
    ∧ ([0x30, 0x31, 0x32].map (decodeTableWord 8) = [some Instr.cbcInit, some .cbcEncstep, some .cbcDecstep])
    ∧ ([0x40, 0x41].map (decodeTableWord 8) = [some Instr.padApply, some .padInspect])
    ∧ ([0x50, 0x51, 0x52].map (decodeTableWord 8) = [some Instr.rngSalt, some .ctrFormat, some .ctrParse])

/-- R98, R100: "No operation has more than one encoding and no encoding selects more than one operation"; every other code
is refused. -/
def Obligations.OnlyEncodingsDecode : Prop :=
  ∀ (f : Format) (bs : List Byte) (i : Instr) (rest : List Byte),
    Sys2Proof.decode f bs = .ok (i, rest) ↔ i.format = f ∧ bs = Sys2Proof.encode i ++ rest

/-! ### Steps and turns -/

/-- R24, R30: with HOST making no move, a step executes the micro-operation whose code `PHASE` holds. -/
def Obligations.StepRunsMicroOperation : Prop :=
  ∀ (s : State) (i : Instr), s.running = true → Sys2Proof.decode .uop [s.phase] = .ok (i, []) →
    (s.host = [] → step s = exec i s)
      ∧ (∀ rest, s.host = .pass :: rest → step s = exec i { s with host := rest })
      ∧ (∀ rest, s.host = .wait :: rest → s.done = false → step s = exec i s)

/-- R95, R260: HOST's write of a command code to `CMD` while `BUSY = 0` executes that command. -/
def Obligations.StepRunsCommand : Prop :=
  ∀ (s : State) (i : Instr) (v : Nat) (rest : List HostMove),
    s.busy = false → s.host = .writeReg 0x00 v :: rest → v < 256 →
    Sys2Proof.decode .cmd [BitVec.ofNat 8 v] = .ok (i, []) → step s = exec i { s with host := rest }

/-- R100, U1: every other value written to `CMD` is refused. -/
def Obligations.ReservedCommandRefused : Prop :=
  ∀ (s : State) (v : Nat) (rest : List HostMove),
    s.busy = false → s.host = .writeReg 0x00 v :: rest → v ∉ [1, 2, 3] → step s = .refused .reservedCommand

/-- R30: in IDLE, DONE_OK and DONE_ERR SEQ has no step of its own: without a move of HOST or reset nothing changes. -/
def Obligations.IdleStays : Prop :=
  ∀ s : State, s.host = [] → s.phase ∈ [0x00, 0xF0, 0xF1] → step s = .next s

/-! ### Reset (70_reset_and_hazards.md R340) and the invariant -/

/-- R37: what the reset state holds where the spec gives a value, and what HOST reads of CFG (R29). -/
def Obligations.ResetState : Prop :=
  (State.reset.phase = 0x00 ∧ State.reset.curCmd = 0x00 ∧ State.reset.status = 0x00 ∧ State.reset.padOk = false)
    ∧ (State.reset.pwLen = 0 ∧ State.reset.inLen = 0 ∧ State.reset.outLen = 0)
    ∧ ([0x08, 0x09, 0x0A, 0x0B, 0x0C, 0x0D, 0x0E, 0x0F].map (State.reset.regValue Config.cfg)
        = [some (.reg 0x08 10000), some (.reg 0x09 48), some (.reg 0x0A 32), some (.reg 0x0B 16), some (.reg 0x0C 8),
           some (.reg 0x0D 16), some (.reg 0x0E 0), some (.bytes [0x53, 0x61, 0x6c, 0x74, 0x65, 0x64, 0x5f, 0x5f])])

/-- R340: reset may strike in any state, `BUSY = 1` included; a command in progress is abandoned: no `DONE`, no `ERR`, no
output, and SEQ waits in IDLE. -/
def Obligations.ResetStrikesAnywhere : Prop :=
  ∀ (s : State) (rest : List HostMove), s.host = .reset :: rest →
    ∃ t, step s = .next t ∧ t.phase = 0x00 ∧ t.status = 0x00 ∧ t.curCmd = 0x00 ∧ t.padOk = false
      ∧ t.pwLen = 0 ∧ t.inLen = 0 ∧ t.outLen = 0 ∧ t.running = false
      ∧ t.host = rest ∧ t.seen = s.seen ∧ t.rng = s.rng ∧ t.draws = s.draws ∧ t.caps = s.caps

/-- The invariant holds after reset. -/
def Obligations.ResetMeetsInvariant : Prop := State.reset.Inv

/-- Every step keeps the invariant: the position, the command, `STATUS` and `OUT_LEN` fit together (R24, R27, R30, R100,
R264, R306), the lengths and every stored address stay within the capacities (R60, R62, R245), the buffers stay in canonical
form. That `CUR_CMD` still holds the command in DONE_OK and DONE_ERR is the model's (log entry 14): R26 ends at completion. -/
def Obligations.StepKeepsInvariant : Prop := ∀ s t : State, s.Inv → step s = .next t → t.Inv

/-- R62, R245 and the closing sentence of 93_implementation_defined.md Part 1: no step faults. -/
def Obligations.NoStepFaults : Prop := ∀ (s : State) (f : Fault), s.Inv → step s ≠ .fault f

/-- R351: every command terminates. The bound, `12 + IN_LEN div 16` steps from any position of its microprogram, counts the
model's own steps (log entries 2 and 9); R351 says finitely many. -/
def Obligations.CommandTerminates : Prop :=
  ∀ s : State, s.Inv → s.host = [] →
    ∃ n t, n ≤ 12 + s.inLen / 16 ∧ run n s = .next t ∧ t.running = false ∧ (s.running = true → t.done = true)

/-! ### Rules of the whole machine -/

/-- R61, R74, R9, R10: no instruction writes `PW`, `IN`, their lengths or the capacities, and none moves the outside world. -/
def Obligations.ExecKeepsOperands : Prop :=
  ∀ (i : Instr) (s t : State), exec i s = .next t →
    t.pw = s.pw ∧ t.inp = s.inp ∧ t.pwLen = s.pwLen ∧ t.inLen = s.inLen ∧ t.caps = s.caps
      ∧ t.host = s.host ∧ t.seen = s.seen ∧ t.epoch = s.epoch

/-- R240, R69: RNG.SALT alone draws, once, and takes the next answer; every other instruction leaves RNG alone. -/
def Obligations.OnlyRngSaltDraws : Prop :=
  ∀ (i : Instr) (s t : State), exec i s = .next t →
    if i = .rngSalt then t.draws = s.draws + 1 ∧ t.rng = s.rng.tail ∧ t.salt = s.nextDraw
    else t.draws = s.draws ∧ t.rng = s.rng

/-- R27, R26, R30: a micro-operation writes `STATUS` only when it ends the command, `PHASE` becoming DONE_OK or DONE_ERR with
`BUSY` 0 and `DONE` 1 in the same step; it never writes `CUR_CMD` (at the end of the command: log entry 14). -/
def Obligations.MicroOperationStatus : Prop :=
  ∀ (i : Instr) (s t : State), i.format = .uop → exec i s = .next t →
    t.curCmd = s.curCmd
      ∧ if t.phase = phaseDoneOk ∨ t.phase = phaseDoneErr then t.busy = false ∧ t.done = true else t.status = s.status

/-- R300, R301, R302, R303, R306: an instruction that ends in DONE_ERR is DERIVE with DerivationError, CTR.PARSE with
FormatError, or the length test after KDF.SPLIT or PAD.INSPECT with PaddingError; `OUT_LEN` is then 0. That the salt test
belongs to the step of DERIVE's issue and the length test to that of KDF.SPLIT is the model's (log entry 2), and so is
`PAD_OK` holding its value after the error (log entry 14). -/
def Obligations.ErrorCauses : Prop :=
  ∀ (i : Instr) (s t : State), exec i s = .next t → t.phase = phaseDoneErr →
    t.outLen = 0 ∧ t.busy = false ∧ t.done = true
      ∧ ((i = .derive ∧ s.inLen ≠ 8 ∧ t.err = 3)
        ∨ (i = .ctrParse ∧ s.inLen < 16 ∧ t.err = 1)
        ∨ (i = .kdfSplit ∧ s.badCipherLen = true ∧ t.err = 2)
        ∨ (i = .padInspect ∧ t.padOk = false ∧ t.err = 2))

/-- R33, R61: which instructions write `OUT` (that a micro-operation's step does its microprogram's write is log entry 2).
Every other one leaves every byte of every buffer as it was; where it ends the command, that is said of `OUT` below
`OUT_LEN` only (U7, U9). -/
def Obligations.OnlyFourWriteOut : Prop :=
  ∀ (i : Instr) (s t : State), i ∉ [Instr.kdfSplit, .cbcEncstep, .cbcDecstep, .ctrFormat] → exec i s = .next t →
    s.KeepsBytesBut t 0 0

/-! ### The host interface (45_commands.md section 4) -/

/-- R267, U6: while `BUSY = 1` every access of HOST's other than reading `STATUS` is refused. -/
def Obligations.BusyRefusesHost : Prop :=
  ∀ (s : State) (m : HostMove) (rest : List HostMove), s.busy = true → s.host = m :: rest →
    m ∉ [.readReg 0x01, .wait, .pass, .reset] → step s = .refused .accessWhileBusy

/-- R267, R27, R103: `STATUS` is readable at any time; its bits 7:4 read as 0; nothing else changes. -/
def Obligations.StatusReadable : Prop :=
  ∀ (s : State) (rest : List HostMove), s.host = .readReg 0x01 :: rest →
    ∃ v, step s = .next { s with host := rest, seen := .reg 0x01 v :: s.seen } ∧ v < 16
      ∧ (v.testBit 0 = s.busy) ∧ (v.testBit 1 = s.done) ∧ v / 4 = s.err.toNat

/-- R267, R33, R105: `OUT[0..OUT_LEN-1]` is readable after a success, in part or by READ OUT; a read past `OUT_LEN`, or after
an error or before completion, is refused; `PW` and `IN` are never readable. -/
def Obligations.OutReadableAfterSuccess : Prop :=
  ∀ (s : State) (sp : Space) (off n : Nat) (rest : List HostMove), s.busy = false →
    (s.host = .readBuf sp off n :: rest →
      if sp = .out ∧ s.done = true ∧ s.err = 0 ∧ off + n ≤ s.outLen then
        step s = .next { s with host := rest,
                                seen := .bytes ((List.range n).map fun k => s.readByte .out (off + k)) :: s.seen }
      else step s = .refused .accessForbidden)
    ∧ (s.host = .readOut :: rest →
      if s.done = true ∧ s.err = 0 then
        step s = .next { s with host := rest,
                                seen := .bytes ((List.range s.outLen).map fun k => s.readByte .out k) :: s.seen }
      else step s = .refused .accessForbidden)

/-- R29, R267, U4, U5, U6: HOST writes `PW_LEN` and `IN_LEN` up to the capacity while `BUSY = 0`; a greater value is refused,
and so is a write to `STATUS`, `OUT_LEN`, a `CFG_*` register or a number with no register. (A write to `CMD` is a command:
StepRunsCommand, ReservedCommandRefused.) -/
def Obligations.LengthWrites : Prop :=
  ∀ (s : State) (v : Nat) (rest : List HostMove), s.busy = false →
    (s.host = .writeReg 0x02 v :: rest →
      step s = if v ≤ s.caps.pwMax then .next { s with host := rest, pwLen := v } else .refused .aboveCapacity)
    ∧ (s.host = .writeReg 0x03 v :: rest →
      step s = if v ≤ s.caps.inMax then .next { s with host := rest, inLen := v } else .refused .aboveCapacity)
    ∧ (∀ no ∈ [0x01, 0x04, 0x08, 0x09, 0x0A, 0x0B, 0x0C, 0x0D, 0x0E, 0x0F],
        s.host = .writeReg no v :: rest → step s = .refused .accessForbidden)
    ∧ (∀ no, no ∈ [0x05, 0x06, 0x07] ∨ 0x10 ≤ no →
        s.host = .writeReg no v :: rest → step s = .refused .unassignedRegister)

/-- R33, R61, R267, U4, U6: HOST's write to `PW` or `IN` while `BUSY = 0` puts the bytes there and changes no other byte of
any buffer and no register; past the capacity it is refused, and a write to `OUT` always. -/
def Obligations.BufferWrites : Prop :=
  ∀ (s : State) (sp : Space) (off : Nat) (bs : List Byte) (rest : List HostMove),
    s.busy = false → s.host = .writeBuf sp off bs :: rest →
    if sp = .out then step s = .refused .accessForbidden
    else if off + bs.length ≤ s.caps.cap sp then
      ∃ t, step s = .next t ∧ t = { s with host := rest, pw := t.pw, inp := t.inp }
        ∧ (∀ k (h : k < bs.length), t.readByte sp (off + k) = bs[k])
        ∧ (∀ sp' a, ¬ (sp' = sp ∧ off ≤ a ∧ a < off + bs.length) → t.readByte sp' a = s.readByte sp' a)
    else step s = .refused .aboveCapacity

/-- R266, R307: from completion to the next write to `CMD` or reset, no move of HOST's changes `STATUS`, `OUT_LEN` or a byte
of `OUT`. -/
def Obligations.OutputStable : Prop :=
  ∀ (s t : State), s.running = false → (∀ v rest, s.host ≠ .writeReg 0x00 v :: rest) →
    (∀ rest, s.host ≠ .reset :: rest) → step s = .next t →
    t.status = s.status ∧ t.phase = s.phase ∧ t.outLen = s.outLen ∧ ∀ a, t.readByte .out a = s.readByte .out a

/-! ### Family KDF (40_kdf.md) -/

/-- R135: SHA256.COMPRESS of the block operand. The latch `blk` and the return point 0x13 are log entries 8 and 9. -/
def Obligations.Sha256CompressResult : Prop :=
  ∀ s : State, ∃ r : ShaRegs,
    exec .sha256Compress s = .next { s with kdf := { s.kdf with sha := r }, phase := 0x13 }
      ∧ r.h = shaCompress s.kdf.sha.h s.kdf.sha.blk
      ∧ r.w = schedule s.kdf.sha.blk ∧ r.v = shaVars (schedule s.kdf.sha.blk) s.kdf.sha.h 64
      ∧ r.t = 63 ∧ r.blk = s.kdf.sha.blk ∧ r.msg = s.kdf.sha.msg

/-- R135: the message schedule: 16 words from the block, most significant byte first, then the recurrence. -/
def Obligations.ScheduleRecurrence : Prop :=
  ∀ blk : Bytes 64,
    (∀ t < 16, ((schedule blk).at 0 t).toNat
        = (blk.byte (4 * t)).toNat * 2 ^ 24 + (blk.byte (4 * t + 1)).toNat * 2 ^ 16
          + (blk.byte (4 * t + 2)).toNat * 2 ^ 8 + (blk.byte (4 * t + 3)).toNat)
    ∧ (∀ t, 16 ≤ t → t < 64 →
        let w := (schedule blk).at 0
        w t = ssig1 (w (t - 2)) + w (t - 7) + ssig0 (w (t - 15)) + w (t - 16))

/-- R136: the padded message is the message, `0x80`, the least number of zero bytes, and the bit length; its length is a
positive multiple of 64. -/
def Obligations.ShaPaddingShape : Prop :=
  ∀ m : List Byte, ∃ k : Nat,
    shaPadded m = m ++ [0x80] ++ List.replicate k 0 ++ (be64 (BitVec.ofNat 64 (8 * m.length))).val
      ∧ (m.length + 1 + k) % 64 = 56 ∧ k < 64
      ∧ (shaPadded m).length % 64 = 0 ∧ 64 ≤ (shaPadded m).length

/-- R137: SHA256.HASH of the message operand; the digest stands in `SHA_H`. The latch `msg` and the return point 0x12 are log
entries 8 and 9. -/
def Obligations.Sha256HashResult : Prop :=
  ∀ s : State, ∃ r : ShaRegs,
    exec .sha256Hash s = .next { s with kdf := { s.kdf with sha := r }, phase := 0x12 }
      ∧ r.h.digest = sha256 s.kdf.sha.msg ∧ r.msg = s.kdf.sha.msg

/-- R138: HMAC of the text operand under the password; the digest stands in `SHA_H`. The latch `text` and the return point
0x11 are log entries 8 and 9. -/
def Obligations.HmacResult : Prop :=
  ∀ s : State, s.pwLen ≤ s.caps.pwMax → ∃ r : KdfRegs,
    exec .hmac s = .next { s with kdf := r, phase := 0x11 }
      ∧ r.sha.h.digest = hmacSha256 s.password s.kdf.text ∧ r.k0 = hmacKey s.password
      ∧ r = { s.kdf with k0 := r.k0, sha := r.sha }

/-- R139: PBKDF2.F of block `KDF_I`: `KDF_T` is the XOR of the 10000 chained PRF outputs, `KDF_U` the last of them. The
return point 0x10 is log entry 9. -/
def Obligations.Pbkdf2FResult : Prop :=
  ∀ s : State, s.pwLen ≤ s.caps.pwMax → ∃ r : KdfRegs,
    exec .pbkdf2F s = .next { s with kdf := r, phase := 0x10 }
      ∧ r.t = pbkdf2F s.password s.salt 10000 s.kdf.i
      ∧ r.u = prfChain s.password (s.salt.val ++ (be32 s.kdf.i).val) 9999
      ∧ r.i = s.kdf.i ∧ r.j = 10000

/-- R140, R130: KDF.RUN leaves in `DKM` the 32 bytes of block 1 and the first 16 of block 2, and goes on to KDF.SPLIT. -/
def Obligations.KdfRunResult : Prop :=
  ∀ s : State, s.pwLen ≤ s.caps.pwMax → ∃ r : KdfRegs,
    exec .kdfRun s = .next { s with kdf := r, dkm := deriveKey Config.cfg s.password s.salt, phase := 0x15 } ∧ r.i = 2
      ∧ (deriveKey Config.cfg s.password s.salt).val
          = (pbkdf2F s.password s.salt 10000 1).val ++ (pbkdf2F s.password s.salt 10000 2).val.take 16

/-- R143: a password longer than 64 bytes and its 32-byte hash derive the same key material for every salt. -/
def Obligations.LongPasswordCollides : Prop :=
  ∀ (cfg : Cfg) (p : List Byte) (salt : Bytes 8), 64 < p.length →
    deriveKey cfg p salt = deriveKey cfg (sha256 p).val salt

/-- R141, R264: KDF.SPLIT moves no data inside ENCODE and DECODE. In DECODE the ciphertext-length test follows (R263); that it
is made in the step of KDF.SPLIT is the model's (log entry 2), and so are `CUR_CMD` and `PAD_OK` after the error (log entry
14). -/
def Obligations.KdfSplitInCodec : Prop :=
  ∀ s : State,
    (s.curCmd = 0x02 → exec .kdfSplit s = .next { s with phase := 0x20 })
    ∧ (s.curCmd = 0x03 → s.inLen - 16 ≠ 0 ∧ (s.inLen - 16) % 16 = 0 → exec .kdfSplit s = .next { s with phase := 0x20 })
    ∧ (s.curCmd = 0x03 → ¬ (s.inLen - 16 ≠ 0 ∧ (s.inLen - 16) % 16 = 0) →
        ∃ t, exec .kdfSplit s = .next t ∧ { s with phase := 0xF1, status := t.status, outLen := 0 }.SameButPrivate t
          ∧ t.busy = false ∧ t.done = true ∧ t.err = 2)

/-- R261: what follows KDF.SPLIT inside DERIVE ends the command: `OUT[0..31]` is the key, `OUT[32..47]` the IV, `OUT_LEN` 48.
That this happens in the step of KDF.SPLIT, which by R141 moves no data, is the model's (log entry 2), and so are `CUR_CMD`
and `PAD_OK` after the end (log entry 14). -/
def Obligations.KdfSplitInDerive : Prop :=
  ∀ s : State, s.curCmd = 0x01 → 48 ≤ s.caps.outMax →
    ∃ t, exec .kdfSplit s = .next t
      ∧ { s with phase := 0xF0, status := t.status, outLen := 48 }.SameButPrivate t
      ∧ t.busy = false ∧ t.done = true ∧ t.err = 0
      ∧ (∀ k < 32, t.readByte .out k = (keyOf s.dkm).byte k)
      ∧ (∀ k < 16, t.readByte .out (32 + k) = (ivOf s.dkm).byte k)
      ∧ s.KeepsBytesBut t 0 48

/-! ### Family AES (41_aes.md) -/

/-- R179: AES.KEYEXP writes the round keys of `KEY` and nothing else; CBC.INIT follows. -/
def Obligations.AesKeyexpResult : Prop :=
  ∀ s : State, exec .aesKeyexp s
    = .next { s with aes := { s.aes with rk := aesKeyExp (s.dkm.slice 0 32) }, phase := 0x30 }

/-- R179: the schedule, word `i` being bytes `4(i mod 4)` to `4(i mod 4) + 3` of round key `i div 4`. -/
def Obligations.KeyScheduleRecurrence : Prop :=
  ∀ key : Bytes 32,
    let w : Nat → Bytes 4 := fun i => ((aesKeyExp key).at (Bytes.zero 16) (i / 4)).slice (4 * (i % 4)) 4
    (∀ i < 8, w i = key.slice (4 * i) 4)
    ∧ (∀ i, 8 ≤ i → i < 60 → i % 8 = 0 →
        ∀ k < 4, (w i).byte k = (w (i - 8)).byte k ^^^ sbox ((w (i - 1)).byte ((k + 1) % 4))
          ^^^ (if k = 0 then xtimePow (i / 8 - 1) 0x01 else 0))
    ∧ (∀ i, 8 ≤ i → i < 60 → i % 8 = 4 → ∀ k < 4, (w i).byte k = (w (i - 8)).byte k ^^^ sbox ((w (i - 1)).byte k))
    ∧ (∀ i, 8 ≤ i → i < 60 → i % 4 ≠ 0 → w i = (w (i - 8)).xor (w (i - 1)))

/-- R180: AES.ENCBLK replaces the block in `AES_S` by its encryption under `AES_RK`, `AES_R` ending at 14. That
`AES_S` holds the operand, and the return point 0x31, are log entries 8 and 9. -/
def Obligations.AesEncblkResult : Prop :=
  ∀ s : State, exec .aesEncblk s
    = .next { s with aes := { s.aes with s := aesEncBlk s.aes.rk s.aes.s, r := 14 }, phase := 0x31 }

/-- R181: AES.DECBLK replaces the block in `AES_S` by its decryption under `AES_RK`, `AES_R` ending at 0. That
`AES_S` holds the operand, and the return point 0x32, are log entries 8 and 9. -/
def Obligations.AesDecblkResult : Prop :=
  ∀ s : State, exec .aesDecblk s
    = .next { s with aes := { s.aes with s := aesDecBlk s.aes.rk s.aes.s, r := 0 }, phase := 0x32 }

/-- R182: under the same round keys the two block operations are inverse to each other. -/
def Obligations.BlockCipherInverse : Prop :=
  ∀ (key : Bytes 32) (x : Bytes 16),
    aesDecBlk (aesKeyExp key) (aesEncBlk (aesKeyExp key) x) = x
      ∧ aesEncBlk (aesKeyExp key) (aesDecBlk (aesKeyExp key) x) = x

/-! ### Family CBC (42_cbc.md) -/

/-- R201, R264: CBC.INIT loads `CHAIN` with the IV and `BLK_N` with 0. -/
def Obligations.CbcInitResult : Prop :=
  ∀ s : State,
    (s.curCmd = 0x02 → exec .cbcInit s = .next { s with chain := s.dkm.slice 32 16, blkN := 0, phase := 0x40 })
    ∧ (s.curCmd = 0x03 → exec .cbcInit s = .next { s with chain := s.dkm.slice 32 16, blkN := 0, phase := 0x32 })

/-- R202, R221, R262: CBC.ENCSTEP of block `k = BLK_N` of the padded plaintext: the ciphertext block is the new `CHAIN` and
stands at `OUT[16+16k ..]`; no other byte of a buffer changes. That R262's write and its loop-end test are made in the step
of CBC.ENCSTEP is the model's (log entry 2). -/
def Obligations.CbcEncstepResult : Prop :=
  ∀ s : State, s.Sized → s.blkN < paddedBlocks s.inLen →
    ∃ t, exec .cbcEncstep s = .next t
      ∧ t.chain = aesEncBlk s.aes.rk ((Bytes.ofList 16 ((padApply s.input).drop (16 * s.blkN))).xor s.chain)
      ∧ t = { s with chain := t.chain, blkN := s.blkN + 1, aes := { s.aes with s := t.chain, r := 14 }, out := t.out,
                     phase := if s.blkN < s.inLen / 16 then 0x31 else 0x51 }
      ∧ (∀ j < 16, t.readByte .out (16 + 16 * s.blkN + j) = t.chain.byte j)
      ∧ s.KeepsBytesBut t (16 + 16 * s.blkN) 16

/-- R203, R263, R347: CBC.DECSTEP of block `k = BLK_N` of the ciphertext: `CHAIN` is the ciphertext block consumed, the
plaintext block stands at `OUT[16k ..]`; no other byte of a buffer changes. That R263's write and its loop-end test are made
in the step of CBC.DECSTEP is the model's (log entry 2). -/
def Obligations.CbcDecstepResult : Prop :=
  ∀ s : State, s.Sized → s.blkN < (s.inLen - 16) / 16 →
    ∃ t, exec .cbcDecstep s = .next t
      ∧ t.chain = Bytes.ofList 16 (s.input.drop (16 + 16 * s.blkN))
      ∧ t = { s with chain := t.chain, blkN := s.blkN + 1,
                     aes := { s.aes with s := aesDecBlk s.aes.rk t.chain, r := 0 }, out := t.out,
                     phase := if s.blkN + 1 < (s.inLen - 16) / 16 then 0x32 else 0x41 }
      ∧ (∀ j < 16, t.readByte .out (16 * s.blkN + j) = (aesDecBlk s.aes.rk t.chain).byte j ^^^ s.chain.byte j)
      ∧ s.KeepsBytesBut t (16 * s.blkN) 16

/-- R205: decryption undoes encryption for every key, IV and message of whole blocks. For the empty message, which R206 leaves
undefined, it is the model's choice (log entry 22). -/
def Obligations.CbcInverse : Prop :=
  ∀ (key : Bytes 32) (iv : Bytes 16) (m : List Byte), m.length % 16 = 0 →
    cbcDec key iv (cbcEnc key iv m) = m ∧ (cbcEnc key iv m).length = m.length

/-! ### Family PAD (43_padding.md) -/

/-- R221: PAD.APPLY writes neither `IN` nor `OUT`. That `PAD_LEN` takes the pad length is the model's (log entry 11). -/
def Obligations.PadApplyResult : Prop :=
  ∀ s : State, exec .padApply s = .next { s with padLen := BitVec.ofNat 5 (16 - s.inLen % 16), phase := 0x31 }

/-- R222, R263: PAD.INSPECT of `d = OUT[0..L-1]`, `L = IN_LEN - 16`: valid padding ends DECODE with `OUT_LEN` the
length of the message, invalid padding with PaddingError; no byte of `PW`, `IN` or the message changes. That the
end of DECODE is in the step of PAD.INSPECT, which by R222 raises nothing itself, is the model's (log entry 2), and so are
`CUR_CMD` and `PAD_OK` after the end (log entry 14) and `L` other than a positive multiple of 16 (log entry 12). -/
def Obligations.PadInspectResult : Prop :=
  ∀ s : State, s.inLen - 16 ≤ s.caps.outMax →
    ∃ t, exec .padInspect s = .next t ∧ s.KeepsBytesBut t 0 0 ∧ t.busy = false ∧ t.done = true
      ∧ match padInspect (s.read .out 0 (s.inLen - 16)) with
        | some m =>
          { s with padOk := true, outLen := m.length, status := t.status, phase := 0xF0 }.SameButPrivate t ∧ t.err = 0
        | none =>
          { s with padOk := false, outLen := 0, status := t.status, phase := 0xF1 }.SameButPrivate t ∧ t.err = 2

/-- R222, R224: the data accepted is exactly that which ends in `N` bytes of value `N`, `N` from 1 to 16. For a length other
than a positive multiple of 16 this is the model's choice (log entry 12). -/
def Obligations.PadInspectAccepts : Prop :=
  ∀ d m : List Byte, padInspect d = some m ↔
    ∃ n, 1 ≤ n ∧ n ≤ 16 ∧ d = m ++ List.replicate n (BitVec.ofNat 8 n)

/-- R223: inspecting a padded message returns the message. -/
def Obligations.PadRoundTrip : Prop := ∀ m : List Byte, padInspect (padApply m) = some m

/-! ### Family CTR (44_container.md) -/

/-- R240: RNG.SALT puts the next draw, whatever it is, in `SALT`. -/
def Obligations.RngSaltResult : Prop :=
  ∀ s : State,
    exec .rngSalt s = .next { s with salt := s.nextDraw, rng := s.rng.tail, draws := s.draws + 1, phase := 0x10 }
      ∧ ∀ salt rest, s.rng = salt :: rest → s.nextDraw = salt

/-- R241, R262: CTR.FORMAT writes the marker and the salt and ends ENCODE. That `OUT_LEN` and the completion are in its step is
the model's (log entry 2), and so are `CUR_CMD` and `PAD_OK` after the end (log entry 14). -/
def Obligations.CtrFormatResult : Prop :=
  ∀ s : State, 16 ≤ s.caps.outMax →
    ∃ t, exec .ctrFormat s = .next t
      ∧ { s with outLen := 16 + 16 * (s.inLen / 16 + 1), status := t.status, phase := 0xF0 }.SameButPrivate t
      ∧ t.busy = false ∧ t.done = true ∧ t.err = 0
      ∧ t.read .out 0 8 = [0x53, 0x61, 0x6c, 0x74, 0x65, 0x64, 0x5f, 0x5f] ∧ t.read .out 8 8 = s.salt.val
      ∧ s.KeepsBytesBut t 0 16

/-- R242: CTR.PARSE takes the salt from `IN[8..15]` whatever the marker bytes are; a container shorter than 16 bytes is a
FormatError, after which `CUR_CMD` and `PAD_OK` are the model's (log entry 14). -/
def Obligations.CtrParseResult : Prop :=
  ∀ s : State, s.inLen ≤ s.caps.inMax →
    (16 ≤ s.inLen → exec .ctrParse s = .next { s with salt := Bytes.ofList 8 (s.input.drop 8), phase := 0x10 })
    ∧ (s.inLen < 16 → ∃ t, exec .ctrParse s = .next t
        ∧ { s with phase := 0xF1, status := t.status, outLen := 0 }.SameButPrivate t
        ∧ t.busy = false ∧ t.done = true ∧ t.err = 1)

/-- R243, R301: in a configuration with `CFG.STRICT_MARKER = 1` a marker other than `CFG.MARKER` is a FormatError, and the
right marker is accepted. `CUR_CMD` and `PAD_OK` after the error are the model's (log entry 14). -/
def Obligations.StrictMarkerTest : Prop :=
  ∀ (cfg : Cfg) (s : State), cfg.strictMarker = true → s.inLen ≤ s.caps.inMax → 16 ≤ s.inLen →
    if s.input.take 8 = cfg.marker.val then
      s.ctrParse cfg = .next { s with salt := Bytes.ofList 8 (s.input.drop 8), phase := 0x10 }
    else ∃ t, s.ctrParse cfg = .next t ∧ { s with phase := 0xF1, status := t.status, outLen := 0 }.SameButPrivate t
      ∧ t.busy = false ∧ t.done = true ∧ t.err = 1

/-! ### The commands (45_commands.md) -/

/-- R260, R261: the issue of DERIVE with an 8-byte salt, and DerivationError for any other length. That the length test and the
`SALT` write are in the step of the issue is the model's (log entry 2), and so is `PAD_OK` after the error (log entry 14). -/
def Obligations.DeriveIssue : Prop :=
  ∀ s : State, s.Sized → s.busy = false →
    (s.inLen = 8 → ∃ t, exec .derive s = .next t ∧ t.busy = true ∧ t.done = false ∧ t.err = 0
      ∧ t = { s with curCmd := 0x01, status := t.status, outLen := 0, salt := Bytes.ofList 8 s.input, phase := 0x10 })
    ∧ (s.inLen ≠ 8 → ∃ t, exec .derive s = .next t ∧ t.busy = false ∧ t.done = true ∧ t.err = 3
      ∧ { s with curCmd := 0x01, status := t.status, outLen := 0, phase := 0xF1 }.SameButPrivate t)

/-- R260, R264: the issue of ENCODE and DECODE. -/
def Obligations.CodecIssue : Prop :=
  ∀ s : State, s.busy = false →
    (∃ t, exec .encode s = .next t ∧ t.busy = true ∧ t.done = false ∧ t.err = 0
      ∧ t = { s with curCmd := 0x02, status := t.status, outLen := 0, phase := 0x50 })
    ∧ (∃ t, exec .decode s = .next t ∧ t.busy = true ∧ t.done = false ∧ t.err = 0
      ∧ t = { s with curCmd := 0x03, status := t.status, outLen := 0, phase := 0x52 })

/-- R261, R264, R268: DERIVE, executed and run to its end, shows the pure function of its operands, leaves the operands and
draws nothing. -/
def Obligations.DeriveCommand : Prop :=
  ∀ s : State, s.Sized → s.busy = false → s.host = [] →
    ∃ t u, exec .derive s = .next t ∧ run (stepsOf .derive s.inLen) t = .next u
      ∧ u.Shows (deriveFn Config.cfg s.password s.input)
      ∧ u.password = s.password ∧ u.input = s.input ∧ u.draws = s.draws

/-- R262, R264, R268: ENCODE, executed and run to its end, never fails and shows the container of its operands and the
draw; it draws once. -/
def Obligations.EncodeCommand : Prop :=
  ∀ s : State, s.Sized → s.busy = false → s.host = [] →
    ∃ t u, exec .encode s = .next t ∧ run (stepsOf .encode s.inLen) t = .next u
      ∧ u.Shows (.ok (encodeFn Config.cfg s.password s.input s.nextDraw))
      ∧ u.password = s.password ∧ u.input = s.input ∧ u.draws = s.draws + 1

/-- R263, R264, R268, R305: DECODE, executed and run to its end, shows the plaintext or the first error of its operands and
draws nothing. -/
def Obligations.DecodeCommand : Prop :=
  ∀ s : State, s.Sized → s.busy = false → s.host = [] →
    ∃ t u, exec .decode s = .next t ∧ run (stepsOf .decode s.inLen) t = .next u
      ∧ u.Shows (decodeFn Config.cfg s.password s.input)
      ∧ u.password = s.password ∧ u.input = s.input ∧ u.draws = s.draws

/-- R36, R268: what a command shows is a function of the code, the password, the input and the draw alone: two machines that
agree on these end with the same `STATUS` fields and the same output, whatever their other registers, `OUT` and earlier
commands were. -/
def Obligations.NothingCarriesOver : Prop :=
  ∀ (i : Instr) (s s' t t' : State), i.format = .cmd →
    s.Sized → s.busy = false → s.host = [] → exec i s = .next t →
    s'.Sized → s'.busy = false → s'.host = [] → exec i s' = .next t' →
    s.password = s'.password → s.input = s'.input → s.nextDraw = s'.nextDraw →
    ∃ u u', run (stepsOf i s.inLen) t = .next u ∧ run (stepsOf i s'.inLen) t' = .next u'
      ∧ u.done = true ∧ u'.done = true ∧ u.err = u'.err ∧ u.outLen = u'.outLen ∧ u.output = u'.output

/-- R271: DECODE of what ENCODE made, under the same password, gives the plaintext, for every password, plaintext, draw and
configuration. -/
def Obligations.DecodeUndoesEncodeCommand : Prop :=
  ∀ (cfg : Cfg) (pw text : List Byte) (salt : Bytes 8), decodeFn cfg pw (encodeFn cfg pw text salt) = .ok text

/-- R94, R245: the output lengths of ENCODE and DECODE. -/
def Obligations.OutputLengths : Prop :=
  ∀ (cfg : Cfg) (pw text : List Byte) (salt : Bytes 8),
    (encodeFn cfg pw text salt).length = 16 + 16 * (text.length / 16 + 1)
      ∧ ∀ m, decodeFn cfg pw text = .ok m → m.length + 17 ≤ text.length

/-- R273: two ENCODEs of the same plaintext and password agree in the marker, carry their draws in bytes 8 to 15, and so
differ when their draws do. -/
def Obligations.SaltTellsContainersApart : Prop :=
  ∀ (cfg : Cfg) (pw text : List Byte) (salt salt' : Bytes 8),
    ((encodeFn cfg pw text salt).drop 8).take 8 = salt.val
      ∧ (encodeFn cfg pw text salt = encodeFn cfg pw text salt' ↔ salt = salt')

/-! ### Register reads (10_state.md R29) -/

/-- R29, R267, U5: what HOST gets from a read of a length or `CFG_*` register while `BUSY = 0`; nothing else changes; a number
with no register is refused. A read of `CMD` gives some byte (U3; log entry 6). `STATUS` is StatusReadable. -/
def Obligations.RegisterReads : Prop :=
  ∀ (s : State) (no : Nat) (rest : List HostMove), s.busy = false → s.host = .readReg no :: rest →
    (∀ v, (no, v) ∈ [(0x02, HostValue.reg 0x02 s.pwLen), (0x03, .reg 0x03 s.inLen), (0x04, .reg 0x04 s.outLen),
          (0x08, .reg 0x08 10000), (0x09, .reg 0x09 48), (0x0A, .reg 0x0A 32), (0x0B, .reg 0x0B 16), (0x0C, .reg 0x0C 8),
          (0x0D, .reg 0x0D 16), (0x0E, .reg 0x0E 0), (0x0F, .bytes [0x53, 0x61, 0x6c, 0x74, 0x65, 0x64, 0x5f, 0x5f])] →
        step s = .next { s with host := rest, seen := v :: s.seen })
    ∧ (no = 0x00 → ∃ v < 256, step s = .next { s with host := rest, seen := .reg 0x00 v :: s.seen })
    ∧ (no ∈ [0x05, 0x06, 0x07] ∨ 0x10 ≤ no → step s = .refused .unassignedRegister)
end

