-- ==== Sys2Proof/Laws/Bytes.lean ====
section
/-! SUPPORT. The small lemmas of fixed-length sequences: an entry of each operation, and equality entry by entry. -/

namespace Sys2Proof

theorem Vec.at_ofFn {α : Type} {n : Nat} (f : Nat → α) (d : α) {k : Nat} (h : k < n) : (Vec.ofFn n f).at d k = f k := by
  simp [Vec.at, Vec.ofFn, h]

theorem Bytes.byte_ofFn {n : Nat} (f : Nat → Byte) {k : Nat} (h : k < n) : Bytes.byte (Vec.ofFn n f) k = f k :=
  Vec.at_ofFn f 0 h

theorem Bytes.byte_past {n : Nat} (v : Bytes n) {k : Nat} (h : n ≤ k) : v.byte k = 0 := by
  simp [Bytes.byte, v.property, h]

theorem Bytes.ext_byte {n : Nat} {v w : Bytes n} (h : ∀ k < n, v.byte k = w.byte k) : v = w := by
  apply Subtype.ext
  apply List.ext_getElem (by simp [v.property, w.property])
  intro k hv hw
  have := h k (by rw [v.property] at hv; exact hv)
  simpa [Bytes.byte, hv, hw] using this

theorem Bytes.byte_xor {n : Nat} (v w : Bytes n) {k : Nat} (h : k < n) : (v.xor w).byte k = v.byte k ^^^ w.byte k :=
  Bytes.byte_ofFn _ h

theorem Bytes.byte_slice {m : Nat} (v : Bytes m) (a n : Nat) {k : Nat} (h : k < n) :
    (v.slice a n).byte k = v.byte (a + k) :=
  Bytes.byte_ofFn _ h

theorem Bytes.byte_ofList (n : Nat) (l : List Byte) {k : Nat} (h : k < n) : (Bytes.ofList n l).byte k = l.getD k 0 :=
  Bytes.byte_ofFn _ h

@[simp] theorem Bytes.length_val {n : Nat} (v : Bytes n) : v.val.length = n := v.property

/-- A sequence read back from its own list, whatever follows it. -/
theorem Bytes.ofList_append {n : Nat} (v : Bytes n) (l : List Byte) : Bytes.ofList n (v.val ++ l) = v := by
  apply Bytes.ext_byte
  intro k hk
  rw [Bytes.byte_ofList n _ hk]
  simp [Bytes.byte, List.getD_eq_getElem?_getD, List.getElem?_append_left, hk]

@[simp] theorem Bytes.ofList_val {n : Nat} (v : Bytes n) : Bytes.ofList n v.val = v := by
  simpa using Bytes.ofList_append v []

theorem Bytes.xor_xor_cancel {n : Nat} (v w : Bytes n) : (v.xor w).xor w = v := by
  apply Bytes.ext_byte
  intro k hk
  rw [Bytes.byte_xor _ _ hk, Bytes.byte_xor _ _ hk, BitVec.xor_assoc, BitVec.xor_self, BitVec.xor_zero]

end Sys2Proof
end

