-- ==== Sys2Proof/Laws/State.lean ====
section
/-! SUPPORT. One lemma per field per named update of the state, so that no proof unfolds a record update; and what the
updates leave of the accessors. -/

namespace Sys2Proof.Machine

variable (s : State)

/-! ### `State.goto` -/

@[simp] theorem State.phase_goto (p : Byte) : (s.goto p).phase = p := rfl
@[simp] theorem State.curCmd_goto (p : Byte) : (s.goto p).curCmd = s.curCmd := rfl
@[simp] theorem State.status_goto (p : Byte) : (s.goto p).status = s.status := rfl
@[simp] theorem State.pwLen_goto (p : Byte) : (s.goto p).pwLen = s.pwLen := rfl
@[simp] theorem State.inLen_goto (p : Byte) : (s.goto p).inLen = s.inLen := rfl
@[simp] theorem State.outLen_goto (p : Byte) : (s.goto p).outLen = s.outLen := rfl
@[simp] theorem State.padOk_goto (p : Byte) : (s.goto p).padOk = s.padOk := rfl
@[simp] theorem State.padLen_goto (p : Byte) : (s.goto p).padLen = s.padLen := rfl
@[simp] theorem State.blkN_goto (p : Byte) : (s.goto p).blkN = s.blkN := rfl
@[simp] theorem State.salt_goto (p : Byte) : (s.goto p).salt = s.salt := rfl
@[simp] theorem State.dkm_goto (p : Byte) : (s.goto p).dkm = s.dkm := rfl
@[simp] theorem State.chain_goto (p : Byte) : (s.goto p).chain = s.chain := rfl
@[simp] theorem State.kdf_goto (p : Byte) : (s.goto p).kdf = s.kdf := rfl
@[simp] theorem State.aes_goto (p : Byte) : (s.goto p).aes = s.aes := rfl
@[simp] theorem State.pw_goto (p : Byte) : (s.goto p).pw = s.pw := rfl
@[simp] theorem State.inp_goto (p : Byte) : (s.goto p).inp = s.inp := rfl
@[simp] theorem State.out_goto (p : Byte) : (s.goto p).out = s.out := rfl
@[simp] theorem State.caps_goto (p : Byte) : (s.goto p).caps = s.caps := rfl
@[simp] theorem State.rng_goto (p : Byte) : (s.goto p).rng = s.rng := rfl
@[simp] theorem State.draws_goto (p : Byte) : (s.goto p).draws = s.draws := rfl
@[simp] theorem State.epoch_goto (p : Byte) : (s.goto p).epoch = s.epoch := rfl
@[simp] theorem State.lapses_goto (p : Byte) : (s.goto p).lapses = s.lapses := rfl
@[simp] theorem State.host_goto (p : Byte) : (s.goto p).host = s.host := rfl
@[simp] theorem State.seen_goto (p : Byte) : (s.goto p).seen = s.seen := rfl

/-! ### `State.issue` -/

@[simp] theorem State.phase_issue (code first : Byte) : (s.issue code first).phase = first := rfl
@[simp] theorem State.curCmd_issue (code first : Byte) : (s.issue code first).curCmd = code := rfl
@[simp] theorem State.status_issue (code first : Byte) : (s.issue code first).status = Status.put true false 0 s.status := rfl
@[simp] theorem State.pwLen_issue (code first : Byte) : (s.issue code first).pwLen = s.pwLen := rfl
@[simp] theorem State.inLen_issue (code first : Byte) : (s.issue code first).inLen = s.inLen := rfl
@[simp] theorem State.outLen_issue (code first : Byte) : (s.issue code first).outLen = 0 := rfl
@[simp] theorem State.padOk_issue (code first : Byte) : (s.issue code first).padOk = s.padOk := rfl
@[simp] theorem State.padLen_issue (code first : Byte) : (s.issue code first).padLen = s.padLen := rfl
@[simp] theorem State.blkN_issue (code first : Byte) : (s.issue code first).blkN = s.blkN := rfl
@[simp] theorem State.salt_issue (code first : Byte) : (s.issue code first).salt = s.salt := rfl
@[simp] theorem State.dkm_issue (code first : Byte) : (s.issue code first).dkm = s.dkm := rfl
@[simp] theorem State.chain_issue (code first : Byte) : (s.issue code first).chain = s.chain := rfl
@[simp] theorem State.kdf_issue (code first : Byte) : (s.issue code first).kdf = s.kdf := rfl
@[simp] theorem State.aes_issue (code first : Byte) : (s.issue code first).aes = s.aes := rfl
@[simp] theorem State.pw_issue (code first : Byte) : (s.issue code first).pw = s.pw := rfl
@[simp] theorem State.inp_issue (code first : Byte) : (s.issue code first).inp = s.inp := rfl
@[simp] theorem State.out_issue (code first : Byte) : (s.issue code first).out = s.out := rfl
@[simp] theorem State.caps_issue (code first : Byte) : (s.issue code first).caps = s.caps := rfl
@[simp] theorem State.rng_issue (code first : Byte) : (s.issue code first).rng = s.rng := rfl
@[simp] theorem State.draws_issue (code first : Byte) : (s.issue code first).draws = s.draws := rfl
@[simp] theorem State.epoch_issue (code first : Byte) : (s.issue code first).epoch = s.epoch := rfl
@[simp] theorem State.lapses_issue (code first : Byte) : (s.issue code first).lapses = s.lapses := rfl
@[simp] theorem State.host_issue (code first : Byte) : (s.issue code first).host = s.host := rfl
@[simp] theorem State.seen_issue (code first : Byte) : (s.issue code first).seen = s.seen := rfl

/-! ### `State.lapse`: the private registers and the rest of `OUT` become unspecified -/

@[simp] theorem State.phase_lapse : s.lapse.phase = s.phase := rfl
@[simp] theorem State.curCmd_lapse : s.lapse.curCmd = s.curCmd := rfl
@[simp] theorem State.status_lapse : s.lapse.status = s.status := rfl
@[simp] theorem State.pwLen_lapse : s.lapse.pwLen = s.pwLen := rfl
@[simp] theorem State.inLen_lapse : s.lapse.inLen = s.inLen := rfl
@[simp] theorem State.outLen_lapse : s.lapse.outLen = s.outLen := rfl
@[simp] theorem State.padOk_lapse : s.lapse.padOk = s.padOk := rfl
@[simp] theorem State.salt_lapse : s.lapse.salt = leftBytes s.lapses .salt 8 := rfl
@[simp] theorem State.dkm_lapse : s.lapse.dkm = leftBytes s.lapses .dkm 48 := rfl
@[simp] theorem State.chain_lapse : s.lapse.chain = leftBytes s.lapses .chain 16 := rfl
@[simp] theorem State.kdf_lapse : s.lapse.kdf = .left s.lapses := rfl
@[simp] theorem State.aes_lapse : s.lapse.aes = .left s.lapses := rfl
@[simp] theorem State.pw_lapse : s.lapse.pw = s.pw := rfl
@[simp] theorem State.inp_lapse : s.lapse.inp = s.inp := rfl
@[simp] theorem State.out_lapse : s.lapse.out = s.outCells s.outLen := rfl
@[simp] theorem State.caps_lapse : s.lapse.caps = s.caps := rfl
@[simp] theorem State.rng_lapse : s.lapse.rng = s.rng := rfl
@[simp] theorem State.draws_lapse : s.lapse.draws = s.draws := rfl
@[simp] theorem State.epoch_lapse : s.lapse.epoch = s.epoch := rfl
@[simp] theorem State.lapses_lapse : s.lapse.lapses = s.lapses + 1 := rfl
@[simp] theorem State.host_lapse : s.lapse.host = s.host := rfl
@[simp] theorem State.seen_lapse : s.lapse.seen = s.seen := rfl

/-! ### `State.complete` -/

@[simp] theorem State.phase_complete : s.complete.phase = phaseDoneOk := rfl
@[simp] theorem State.curCmd_complete : s.complete.curCmd = s.curCmd := rfl
@[simp] theorem State.status_complete : s.complete.status = Status.put false true 0 s.status := rfl
@[simp] theorem State.pwLen_complete : s.complete.pwLen = s.pwLen := rfl
@[simp] theorem State.inLen_complete : s.complete.inLen = s.inLen := rfl
@[simp] theorem State.outLen_complete : s.complete.outLen = s.outLen := rfl
@[simp] theorem State.padOk_complete : s.complete.padOk = s.padOk := rfl
@[simp] theorem State.salt_complete : s.complete.salt = leftBytes s.lapses .salt 8 := rfl
@[simp] theorem State.dkm_complete : s.complete.dkm = leftBytes s.lapses .dkm 48 := rfl
@[simp] theorem State.chain_complete : s.complete.chain = leftBytes s.lapses .chain 16 := rfl
@[simp] theorem State.kdf_complete : s.complete.kdf = .left s.lapses := rfl
@[simp] theorem State.aes_complete : s.complete.aes = .left s.lapses := rfl
@[simp] theorem State.pw_complete : s.complete.pw = s.pw := rfl
@[simp] theorem State.inp_complete : s.complete.inp = s.inp := rfl
@[simp] theorem State.out_complete : s.complete.out = s.outCells s.outLen := rfl
@[simp] theorem State.caps_complete : s.complete.caps = s.caps := rfl
@[simp] theorem State.rng_complete : s.complete.rng = s.rng := rfl
@[simp] theorem State.draws_complete : s.complete.draws = s.draws := rfl
@[simp] theorem State.epoch_complete : s.complete.epoch = s.epoch := rfl
@[simp] theorem State.lapses_complete : s.complete.lapses = s.lapses + 1 := rfl
@[simp] theorem State.host_complete : s.complete.host = s.host := rfl
@[simp] theorem State.seen_complete : s.complete.seen = s.seen := rfl

/-! ### `State.raise` -/

@[simp] theorem State.phase_raise (e : Err) : (s.raise e).phase = phaseDoneErr := rfl
@[simp] theorem State.curCmd_raise (e : Err) : (s.raise e).curCmd = s.curCmd := rfl
@[simp] theorem State.status_raise (e : Err) : (s.raise e).status = Status.put false true e.code s.status := rfl
@[simp] theorem State.pwLen_raise (e : Err) : (s.raise e).pwLen = s.pwLen := rfl
@[simp] theorem State.inLen_raise (e : Err) : (s.raise e).inLen = s.inLen := rfl
@[simp] theorem State.outLen_raise (e : Err) : (s.raise e).outLen = 0 := rfl
@[simp] theorem State.padOk_raise (e : Err) : (s.raise e).padOk = s.padOk := rfl
@[simp] theorem State.salt_raise (e : Err) : (s.raise e).salt = leftBytes s.lapses .salt 8 := rfl
@[simp] theorem State.dkm_raise (e : Err) : (s.raise e).dkm = leftBytes s.lapses .dkm 48 := rfl
@[simp] theorem State.chain_raise (e : Err) : (s.raise e).chain = leftBytes s.lapses .chain 16 := rfl
@[simp] theorem State.kdf_raise (e : Err) : (s.raise e).kdf = .left s.lapses := rfl
@[simp] theorem State.aes_raise (e : Err) : (s.raise e).aes = .left s.lapses := rfl
@[simp] theorem State.pw_raise (e : Err) : (s.raise e).pw = s.pw := rfl
@[simp] theorem State.inp_raise (e : Err) : (s.raise e).inp = s.inp := rfl
@[simp] theorem State.out_raise (e : Err) : (s.raise e).out = [] := rfl
@[simp] theorem State.caps_raise (e : Err) : (s.raise e).caps = s.caps := rfl
@[simp] theorem State.rng_raise (e : Err) : (s.raise e).rng = s.rng := rfl
@[simp] theorem State.draws_raise (e : Err) : (s.raise e).draws = s.draws := rfl
@[simp] theorem State.epoch_raise (e : Err) : (s.raise e).epoch = s.epoch := rfl
@[simp] theorem State.lapses_raise (e : Err) : (s.raise e).lapses = s.lapses + 1 := rfl
@[simp] theorem State.host_raise (e : Err) : (s.raise e).host = s.host := rfl
@[simp] theorem State.seen_raise (e : Err) : (s.raise e).seen = s.seen := rfl

/-! ### `State.drawn` -/

@[simp] theorem State.phase_drawn : s.drawn.phase = s.phase := rfl
@[simp] theorem State.curCmd_drawn : s.drawn.curCmd = s.curCmd := rfl
@[simp] theorem State.status_drawn : s.drawn.status = s.status := rfl
@[simp] theorem State.pwLen_drawn : s.drawn.pwLen = s.pwLen := rfl
@[simp] theorem State.inLen_drawn : s.drawn.inLen = s.inLen := rfl
@[simp] theorem State.outLen_drawn : s.drawn.outLen = s.outLen := rfl
@[simp] theorem State.padOk_drawn : s.drawn.padOk = s.padOk := rfl
@[simp] theorem State.padLen_drawn : s.drawn.padLen = s.padLen := rfl
@[simp] theorem State.blkN_drawn : s.drawn.blkN = s.blkN := rfl
@[simp] theorem State.salt_drawn : s.drawn.salt = s.salt := rfl
@[simp] theorem State.dkm_drawn : s.drawn.dkm = s.dkm := rfl
@[simp] theorem State.chain_drawn : s.drawn.chain = s.chain := rfl
@[simp] theorem State.kdf_drawn : s.drawn.kdf = s.kdf := rfl
@[simp] theorem State.aes_drawn : s.drawn.aes = s.aes := rfl
@[simp] theorem State.pw_drawn : s.drawn.pw = s.pw := rfl
@[simp] theorem State.inp_drawn : s.drawn.inp = s.inp := rfl
@[simp] theorem State.out_drawn : s.drawn.out = s.out := rfl
@[simp] theorem State.caps_drawn : s.drawn.caps = s.caps := rfl
@[simp] theorem State.rng_drawn : s.drawn.rng = s.rng.tail := rfl
@[simp] theorem State.draws_drawn : s.drawn.draws = s.draws + 1 := rfl
@[simp] theorem State.epoch_drawn : s.drawn.epoch = s.epoch := rfl
@[simp] theorem State.lapses_drawn : s.drawn.lapses = s.lapses := rfl
@[simp] theorem State.host_drawn : s.drawn.host = s.host := rfl
@[simp] theorem State.seen_drawn : s.drawn.seen = s.seen := rfl

/-! ### `State.give` -/

@[simp] theorem State.phase_give (v : HostValue) : (s.give v).phase = s.phase := rfl
@[simp] theorem State.curCmd_give (v : HostValue) : (s.give v).curCmd = s.curCmd := rfl
@[simp] theorem State.status_give (v : HostValue) : (s.give v).status = s.status := rfl
@[simp] theorem State.pwLen_give (v : HostValue) : (s.give v).pwLen = s.pwLen := rfl
@[simp] theorem State.inLen_give (v : HostValue) : (s.give v).inLen = s.inLen := rfl
@[simp] theorem State.outLen_give (v : HostValue) : (s.give v).outLen = s.outLen := rfl
@[simp] theorem State.padOk_give (v : HostValue) : (s.give v).padOk = s.padOk := rfl
@[simp] theorem State.padLen_give (v : HostValue) : (s.give v).padLen = s.padLen := rfl
@[simp] theorem State.blkN_give (v : HostValue) : (s.give v).blkN = s.blkN := rfl
@[simp] theorem State.salt_give (v : HostValue) : (s.give v).salt = s.salt := rfl
@[simp] theorem State.dkm_give (v : HostValue) : (s.give v).dkm = s.dkm := rfl
@[simp] theorem State.chain_give (v : HostValue) : (s.give v).chain = s.chain := rfl
@[simp] theorem State.kdf_give (v : HostValue) : (s.give v).kdf = s.kdf := rfl
@[simp] theorem State.aes_give (v : HostValue) : (s.give v).aes = s.aes := rfl
@[simp] theorem State.pw_give (v : HostValue) : (s.give v).pw = s.pw := rfl
@[simp] theorem State.inp_give (v : HostValue) : (s.give v).inp = s.inp := rfl
@[simp] theorem State.out_give (v : HostValue) : (s.give v).out = s.out := rfl
@[simp] theorem State.caps_give (v : HostValue) : (s.give v).caps = s.caps := rfl
@[simp] theorem State.rng_give (v : HostValue) : (s.give v).rng = s.rng := rfl
@[simp] theorem State.draws_give (v : HostValue) : (s.give v).draws = s.draws := rfl
@[simp] theorem State.epoch_give (v : HostValue) : (s.give v).epoch = s.epoch := rfl
@[simp] theorem State.lapses_give (v : HostValue) : (s.give v).lapses = s.lapses := rfl
@[simp] theorem State.host_give (v : HostValue) : (s.give v).host = s.host := rfl
@[simp] theorem State.seen_give (v : HostValue) : (s.give v).seen = v :: s.seen := rfl

/-! ### `State.encStep` -/

@[simp] theorem State.phase_encStep (p : Bytes 16) : (s.encStep p).phase = s.phase := rfl
@[simp] theorem State.curCmd_encStep (p : Bytes 16) : (s.encStep p).curCmd = s.curCmd := rfl
@[simp] theorem State.status_encStep (p : Bytes 16) : (s.encStep p).status = s.status := rfl
@[simp] theorem State.pwLen_encStep (p : Bytes 16) : (s.encStep p).pwLen = s.pwLen := rfl
@[simp] theorem State.inLen_encStep (p : Bytes 16) : (s.encStep p).inLen = s.inLen := rfl
@[simp] theorem State.outLen_encStep (p : Bytes 16) : (s.encStep p).outLen = s.outLen := rfl
@[simp] theorem State.padOk_encStep (p : Bytes 16) : (s.encStep p).padOk = s.padOk := rfl
@[simp] theorem State.padLen_encStep (p : Bytes 16) : (s.encStep p).padLen = s.padLen := rfl
@[simp] theorem State.blkN_encStep (p : Bytes 16) : (s.encStep p).blkN = s.blkN + 1 := rfl
@[simp] theorem State.salt_encStep (p : Bytes 16) : (s.encStep p).salt = s.salt := rfl
@[simp] theorem State.dkm_encStep (p : Bytes 16) : (s.encStep p).dkm = s.dkm := rfl
@[simp] theorem State.chain_encStep (p : Bytes 16) : (s.encStep p).chain = { s.aes with s := p.xor s.chain }.encrypt.s := rfl
@[simp] theorem State.kdf_encStep (p : Bytes 16) : (s.encStep p).kdf = s.kdf := rfl
@[simp] theorem State.aes_encStep (p : Bytes 16) : (s.encStep p).aes = { s.aes with s := p.xor s.chain }.encrypt := rfl
@[simp] theorem State.pw_encStep (p : Bytes 16) : (s.encStep p).pw = s.pw := rfl
@[simp] theorem State.inp_encStep (p : Bytes 16) : (s.encStep p).inp = s.inp := rfl
@[simp] theorem State.out_encStep (p : Bytes 16) : (s.encStep p).out = s.out := rfl
@[simp] theorem State.caps_encStep (p : Bytes 16) : (s.encStep p).caps = s.caps := rfl
@[simp] theorem State.rng_encStep (p : Bytes 16) : (s.encStep p).rng = s.rng := rfl
@[simp] theorem State.draws_encStep (p : Bytes 16) : (s.encStep p).draws = s.draws := rfl
@[simp] theorem State.epoch_encStep (p : Bytes 16) : (s.encStep p).epoch = s.epoch := rfl
@[simp] theorem State.lapses_encStep (p : Bytes 16) : (s.encStep p).lapses = s.lapses := rfl
@[simp] theorem State.host_encStep (p : Bytes 16) : (s.encStep p).host = s.host := rfl
@[simp] theorem State.seen_encStep (p : Bytes 16) : (s.encStep p).seen = s.seen := rfl

/-! ### `State.decStep` -/

@[simp] theorem State.phase_decStep (c : Bytes 16) : (s.decStep c).phase = s.phase := rfl
@[simp] theorem State.curCmd_decStep (c : Bytes 16) : (s.decStep c).curCmd = s.curCmd := rfl
@[simp] theorem State.status_decStep (c : Bytes 16) : (s.decStep c).status = s.status := rfl
@[simp] theorem State.pwLen_decStep (c : Bytes 16) : (s.decStep c).pwLen = s.pwLen := rfl
@[simp] theorem State.inLen_decStep (c : Bytes 16) : (s.decStep c).inLen = s.inLen := rfl
@[simp] theorem State.outLen_decStep (c : Bytes 16) : (s.decStep c).outLen = s.outLen := rfl
@[simp] theorem State.padOk_decStep (c : Bytes 16) : (s.decStep c).padOk = s.padOk := rfl
@[simp] theorem State.padLen_decStep (c : Bytes 16) : (s.decStep c).padLen = s.padLen := rfl
@[simp] theorem State.blkN_decStep (c : Bytes 16) : (s.decStep c).blkN = s.blkN + 1 := rfl
@[simp] theorem State.salt_decStep (c : Bytes 16) : (s.decStep c).salt = s.salt := rfl
@[simp] theorem State.dkm_decStep (c : Bytes 16) : (s.decStep c).dkm = s.dkm := rfl
@[simp] theorem State.chain_decStep (c : Bytes 16) : (s.decStep c).chain = c := rfl
@[simp] theorem State.kdf_decStep (c : Bytes 16) : (s.decStep c).kdf = s.kdf := rfl
@[simp] theorem State.aes_decStep (c : Bytes 16) : (s.decStep c).aes = { s.aes with s := c }.decrypt := rfl
@[simp] theorem State.pw_decStep (c : Bytes 16) : (s.decStep c).pw = s.pw := rfl
@[simp] theorem State.inp_decStep (c : Bytes 16) : (s.decStep c).inp = s.inp := rfl
@[simp] theorem State.out_decStep (c : Bytes 16) : (s.decStep c).out = s.out := rfl
@[simp] theorem State.caps_decStep (c : Bytes 16) : (s.decStep c).caps = s.caps := rfl
@[simp] theorem State.rng_decStep (c : Bytes 16) : (s.decStep c).rng = s.rng := rfl
@[simp] theorem State.draws_decStep (c : Bytes 16) : (s.decStep c).draws = s.draws := rfl
@[simp] theorem State.epoch_decStep (c : Bytes 16) : (s.decStep c).epoch = s.epoch := rfl
@[simp] theorem State.lapses_decStep (c : Bytes 16) : (s.decStep c).lapses = s.lapses := rfl
@[simp] theorem State.host_decStep (c : Bytes 16) : (s.decStep c).host = s.host := rfl
@[simp] theorem State.seen_decStep (c : Bytes 16) : (s.decStep c).seen = s.seen := rfl

/-! ### `State.store` -/

@[simp] theorem State.phase_store (sp : Space) (off : Nat) (bs : List Byte) : (s.store sp off bs).phase = s.phase := by
  cases sp <;> rfl
@[simp] theorem State.curCmd_store (sp : Space) (off : Nat) (bs : List Byte) : (s.store sp off bs).curCmd = s.curCmd := by
  cases sp <;> rfl
@[simp] theorem State.status_store (sp : Space) (off : Nat) (bs : List Byte) : (s.store sp off bs).status = s.status := by
  cases sp <;> rfl
@[simp] theorem State.pwLen_store (sp : Space) (off : Nat) (bs : List Byte) : (s.store sp off bs).pwLen = s.pwLen := by
  cases sp <;> rfl
@[simp] theorem State.inLen_store (sp : Space) (off : Nat) (bs : List Byte) : (s.store sp off bs).inLen = s.inLen := by
  cases sp <;> rfl
@[simp] theorem State.outLen_store (sp : Space) (off : Nat) (bs : List Byte) : (s.store sp off bs).outLen = s.outLen := by
  cases sp <;> rfl
@[simp] theorem State.padOk_store (sp : Space) (off : Nat) (bs : List Byte) : (s.store sp off bs).padOk = s.padOk := by
  cases sp <;> rfl
@[simp] theorem State.padLen_store (sp : Space) (off : Nat) (bs : List Byte) : (s.store sp off bs).padLen = s.padLen := by
  cases sp <;> rfl
@[simp] theorem State.blkN_store (sp : Space) (off : Nat) (bs : List Byte) : (s.store sp off bs).blkN = s.blkN := by
  cases sp <;> rfl
@[simp] theorem State.salt_store (sp : Space) (off : Nat) (bs : List Byte) : (s.store sp off bs).salt = s.salt := by
  cases sp <;> rfl
@[simp] theorem State.dkm_store (sp : Space) (off : Nat) (bs : List Byte) : (s.store sp off bs).dkm = s.dkm := by
  cases sp <;> rfl
@[simp] theorem State.chain_store (sp : Space) (off : Nat) (bs : List Byte) : (s.store sp off bs).chain = s.chain := by
  cases sp <;> rfl
@[simp] theorem State.kdf_store (sp : Space) (off : Nat) (bs : List Byte) : (s.store sp off bs).kdf = s.kdf := by
  cases sp <;> rfl
@[simp] theorem State.aes_store (sp : Space) (off : Nat) (bs : List Byte) : (s.store sp off bs).aes = s.aes := by
  cases sp <;> rfl
@[simp] theorem State.caps_store (sp : Space) (off : Nat) (bs : List Byte) : (s.store sp off bs).caps = s.caps := by
  cases sp <;> rfl
@[simp] theorem State.rng_store (sp : Space) (off : Nat) (bs : List Byte) : (s.store sp off bs).rng = s.rng := by
  cases sp <;> rfl
@[simp] theorem State.draws_store (sp : Space) (off : Nat) (bs : List Byte) : (s.store sp off bs).draws = s.draws := by
  cases sp <;> rfl
@[simp] theorem State.epoch_store (sp : Space) (off : Nat) (bs : List Byte) : (s.store sp off bs).epoch = s.epoch := by
  cases sp <;> rfl
@[simp] theorem State.lapses_store (sp : Space) (off : Nat) (bs : List Byte) : (s.store sp off bs).lapses = s.lapses := by
  cases sp <;> rfl
@[simp] theorem State.host_store (sp : Space) (off : Nat) (bs : List Byte) : (s.store sp off bs).host = s.host := by
  cases sp <;> rfl
@[simp] theorem State.seen_store (sp : Space) (off : Nat) (bs : List Byte) : (s.store sp off bs).seen = s.seen := by
  cases sp <;> rfl
@[simp] theorem State.mem_store_same (sp : Space) (off : Nat) (bs : List Byte) :
    (s.store sp off bs).mem sp = (s.mem sp).write off bs := by
  cases sp <;> rfl
theorem State.mem_store_other {sp sp' : Space} (off : Nat) (bs : List Byte) (h : sp' ≠ sp) :
    (s.store sp off bs).mem sp' = s.mem sp' := by
  cases sp <;> cases sp' <;> first | rfl | exact absurd rfl h
@[simp] theorem State.pw_store_out (off : Nat) (bs : List Byte) : (s.store .out off bs).pw = s.pw := rfl
@[simp] theorem State.inp_store_out (off : Nat) (bs : List Byte) : (s.store .out off bs).inp = s.inp := rfl
@[simp] theorem State.out_store_out (off : Nat) (bs : List Byte) :
    (s.store .out off bs).out = s.out.write off bs := rfl

/-! ### `State.resetEvent` -/

@[simp] theorem State.phase_resetEvent : s.resetEvent.phase = State.reset.phase := rfl
@[simp] theorem State.curCmd_resetEvent : s.resetEvent.curCmd = State.reset.curCmd := rfl
@[simp] theorem State.status_resetEvent : s.resetEvent.status = State.reset.status := rfl
@[simp] theorem State.pwLen_resetEvent : s.resetEvent.pwLen = State.reset.pwLen := rfl
@[simp] theorem State.inLen_resetEvent : s.resetEvent.inLen = State.reset.inLen := rfl
@[simp] theorem State.outLen_resetEvent : s.resetEvent.outLen = State.reset.outLen := rfl
@[simp] theorem State.padOk_resetEvent : s.resetEvent.padOk = State.reset.padOk := rfl
@[simp] theorem State.salt_resetEvent : s.resetEvent.salt = leftBytes s.lapses .salt 8 := rfl
@[simp] theorem State.dkm_resetEvent : s.resetEvent.dkm = leftBytes s.lapses .dkm 48 := rfl
@[simp] theorem State.chain_resetEvent : s.resetEvent.chain = leftBytes s.lapses .chain 16 := rfl
@[simp] theorem State.kdf_resetEvent : s.resetEvent.kdf = .left s.lapses := rfl
@[simp] theorem State.aes_resetEvent : s.resetEvent.aes = .left s.lapses := rfl
@[simp] theorem State.pw_resetEvent : s.resetEvent.pw = State.reset.pw := rfl
@[simp] theorem State.inp_resetEvent : s.resetEvent.inp = State.reset.inp := rfl
@[simp] theorem State.out_resetEvent : s.resetEvent.out = [] := rfl
@[simp] theorem State.caps_resetEvent : s.resetEvent.caps = s.caps := rfl
@[simp] theorem State.rng_resetEvent : s.resetEvent.rng = s.rng := rfl
@[simp] theorem State.draws_resetEvent : s.resetEvent.draws = s.draws := rfl
@[simp] theorem State.epoch_resetEvent : s.resetEvent.epoch = s.epoch + 1 := rfl
@[simp] theorem State.lapses_resetEvent : s.resetEvent.lapses = s.lapses + 1 := rfl
@[simp] theorem State.host_resetEvent : s.resetEvent.host = s.host := rfl
@[simp] theorem State.seen_resetEvent : s.resetEvent.seen = s.seen := rfl

/-! ### The buffers under the updates that store nothing -/

@[simp] theorem State.mem_goto (p : Byte) (sp : Space) : (s.goto p).mem sp = s.mem sp := by cases sp <;> rfl
@[simp] theorem State.mem_issue (code first : Byte) (sp : Space) : (s.issue code first).mem sp = s.mem sp := by
  cases sp <;> rfl
@[simp] theorem State.mem_drawn (sp : Space) : s.drawn.mem sp = s.mem sp := by cases sp <;> rfl
@[simp] theorem State.mem_give (v : HostValue) (sp : Space) : (s.give v).mem sp = s.mem sp := by cases sp <;> rfl
@[simp] theorem State.mem_encStep (p : Bytes 16) (sp : Space) : (s.encStep p).mem sp = s.mem sp := by cases sp <;> rfl
@[simp] theorem State.mem_decStep (c : Bytes 16) (sp : Space) : (s.decStep c).mem sp = s.mem sp := by cases sp <;> rfl
@[simp] theorem State.mem_resetEvent (sp : Space) : s.resetEvent.mem sp = [] := by cases sp <;> rfl

end Sys2Proof.Machine
end

