-- ==== Sys2Proof/Laws/Flags.lean ====
section
/-! SUPPORT. What `Status.put` leaves in each field of STATUS, and the fields after issue, completion and error entry. -/

namespace Sys2Proof.Machine

theorem Status.busy_put (b d : Bool) (e : BitVec 2) (st : Byte) : Status.busy (Status.put b d e st) = b := by
  revert b d e st; decide +kernel

theorem Status.done_put (b d : Bool) (e : BitVec 2) (st : Byte) : Status.done (Status.put b d e st) = d := by
  revert b d e st; decide +kernel

theorem Status.err_put (b d : Bool) (e : BitVec 2) (st : Byte) : Status.err (Status.put b d e st) = e := by
  revert b d e st; decide +kernel

/-- The reserved bits stay as they were. -/
theorem Status.reserved_put (b d : Bool) (e : BitVec 2) (st : Byte) : Status.put b d e st &&& 0xF0 = st &&& 0xF0 := by
  revert b d e st; decide +kernel

/-- What HOST reads of STATUS is its fields. -/
theorem Status.visible_eq (st : Byte) : Status.visible st = Status.put (Status.busy st) (Status.done st) (Status.err st) 0 := by
  revert st; decide +kernel

/-- STATUS with the reserved bits clear is settled by its fields. -/
theorem Status.put_of_clear {st : Byte} (b d : Bool) (e : BitVec 2) (h : st &&& 0xF0 = 0) :
    Status.put b d e st = Status.put b d e 0 := by
  revert h; revert b d e st; decide +kernel

variable (s : State)

@[simp] theorem State.busy_issue (code first : Byte) : (s.issue code first).busy = true := Status.busy_put _ _ _ _
@[simp] theorem State.done_issue (code first : Byte) : (s.issue code first).done = false := Status.done_put _ _ _ _
@[simp] theorem State.err_issue (code first : Byte) : (s.issue code first).err = 0 := Status.err_put _ _ _ _
@[simp] theorem State.busy_complete : s.complete.busy = false := Status.busy_put _ _ _ _
@[simp] theorem State.done_complete : s.complete.done = true := Status.done_put _ _ _ _
@[simp] theorem State.err_complete : s.complete.err = 0 := Status.err_put _ _ _ _
@[simp] theorem State.busy_raise (e : Err) : (s.raise e).busy = false := Status.busy_put _ _ _ _
@[simp] theorem State.done_raise (e : Err) : (s.raise e).done = true := Status.done_put _ _ _ _
@[simp] theorem State.err_raise (e : Err) : (s.raise e).err = e.code := Status.err_put _ _ _ _

end Sys2Proof.Machine
end

