-- ==== Sys2Proof/Laws/Mem.lean ====
section
/-! SUPPORT. Memory: a read after a write, the canonical form and the bound on addresses under every memory operation, and
what a store leaves of every byte. -/

namespace Sys2Proof.Machine

theorem Mem.get?_set_same (m : Mem) (a : Nat) (x : Byte) : (m.set a x).get? a = some x := by
  induction m with
  | nil => simp [Mem.set, Mem.get?]
  | cons c rest ih =>
    obtain ⟨b, y⟩ := c
    simp only [Mem.set]
    split_ifs with h1 h2
    · simp [Mem.get?]
    · simp [Mem.get?]
    · simp [Mem.get?, Ne.symm h2, ih]

theorem Mem.get?_set_other (m : Mem) {a a' : Nat} (x : Byte) (h : a' ≠ a) : (m.set a x).get? a' = m.get? a' := by
  induction m with
  | nil => simp [Mem.set, Mem.get?, Ne.symm h]
  | cons c rest ih =>
    obtain ⟨b, y⟩ := c
    simp only [Mem.set]
    split_ifs with h1 h2
    · simp [Mem.get?, Ne.symm h]
    · subst h2; simp [Mem.get?, Ne.symm h]
    · simp only [Mem.get?]; split_ifs <;> simp [ih]

/-- The head of a cell list that `set` leaves in front is the old head or the new cell. -/
theorem Mem.wf_cons_set (c : Host.Cell) (m : Mem) (a : Nat) (x : Byte) (hc : c.1 < a)
    (h : Mem.wf (c :: m) = true) (hm : Mem.wf (m.set a x) = true) : Mem.wf (c :: m.set a x) = true := by
  cases m with
  | nil => simp [Mem.set, Mem.wf, hc]
  | cons d rest =>
    obtain ⟨b, y⟩ := d
    simp only [Mem.wf, Bool.and_eq_true, decide_eq_true_eq] at h
    simp only [Mem.set] at hm ⊢
    split_ifs at hm ⊢ <;> simp_all [Mem.wf]

/-- Writing one byte keeps the canonical form. -/
theorem Mem.wf_set (m : Mem) (a : Nat) (x : Byte) (h : m.wf = true) : (m.set a x).wf = true := by
  induction m with
  | nil => rfl
  | cons c rest ih =>
    obtain ⟨b, y⟩ := c
    have hrest : Mem.wf rest = true := by
      cases rest with
      | nil => rfl
      | cons d r => simp only [Mem.wf, Bool.and_eq_true] at h; exact h.2
    simp only [Mem.set]
    split_ifs with h1 h2
    · simp [Mem.wf, h1, h]
    · subst h2; cases rest <;> simp_all [Mem.wf]
    · exact Mem.wf_cons_set (b, y) rest a x (by simp only; omega) h (ih hrest)

/-- Storing bytes keeps the canonical form. -/
theorem Mem.wf_write (m : Mem) (off : Nat) (bs : List Byte) (h : m.wf = true) : (m.write off bs).wf = true := by
  induction bs generalizing m off with
  | nil => exact h
  | cons x rest ih => exact ih _ _ (Mem.wf_set m off x h)

theorem Mem.below_set (m : Mem) {a n : Nat} (x : Byte) (ha : a < n) (h : m.below n = true) :
    (m.set a x).below n = true := by
  induction m with
  | nil => simpa [Mem.set, Mem.below] using ha
  | cons c rest ih =>
    obtain ⟨b, y⟩ := c
    simp only [Mem.below, List.all_cons, Bool.and_eq_true, decide_eq_true_eq] at h ih
    have hrest := ih h.2
    simp only [Mem.set]
    split_ifs <;> simp only [Mem.below, List.all_cons, Bool.and_eq_true, decide_eq_true_eq]
    · exact ⟨ha, h⟩
    · exact ⟨ha, h.2⟩
    · exact ⟨h.1, hrest⟩

theorem Mem.below_write (m : Mem) {off n : Nat} (bs : List Byte) (hb : off + bs.length ≤ n) (h : m.below n = true) :
    (m.write off bs).below n = true := by
  induction bs generalizing m off with
  | nil => exact h
  | cons x rest ih =>
    simp only [List.length_cons] at hb
    exact ih _ (by omega) (Mem.below_set m x (by omega) h)

/-- A store leaves every address outside its range alone. -/
theorem Mem.get?_write_outside (m : Mem) (off : Nat) (bs : List Byte) {a : Nat}
    (h : a < off ∨ off + bs.length ≤ a) : (m.write off bs).get? a = m.get? a := by
  induction bs generalizing m off with
  | nil => rfl
  | cons x rest ih =>
    simp only [List.length_cons] at h
    rw [Mem.write, ih _ _ (by omega), Mem.get?_set_other _ _ (by omega)]

/-- A store puts its `k`-th byte at the `k`-th address. -/
theorem Mem.get?_write_inside (m : Mem) (off : Nat) (bs : List Byte) {k : Nat} (h : k < bs.length) :
    (m.write off bs).get? (off + k) = bs[k]? := by
  induction bs generalizing m off k with
  | nil => simp at h
  | cons x rest ih =>
    simp only [List.length_cons] at h
    cases k with
    | zero =>
      rw [Mem.write, Mem.get?_write_outside _ _ _ (by omega)]
      simpa using Mem.get?_set_same m off x
    | succ k =>
      rw [Mem.write, show off + (k + 1) = off + 1 + k by omega, ih _ _ (by omega)]
      simp

@[simp] theorem State.stamp_store (s : State) (sp sp' : Space) (off : Nat) (bs : List Byte) :
    (s.store sp off bs).stamp sp' = s.stamp sp' := by
  cases sp <;> cases sp' <;> rfl

/-- A byte outside the stored range reads as before. -/
theorem State.readByte_store_outside (s : State) {sp sp' : Space} {off a : Nat} (bs : List Byte)
    (h : sp' ≠ sp ∨ a < off ∨ off + bs.length ≤ a) : (s.store sp off bs).readByte sp' a = s.readByte sp' a := by
  by_cases hs : sp' = sp
  · subst hs
    simp only [State.readByte, State.mem_store_same, State.stamp_store]
    rw [Mem.get?_write_outside _ _ _ (h.resolve_left (fun hn => hn rfl))]
  · simp only [State.readByte, State.stamp_store, State.mem_store_other s off bs hs]

/-- A byte inside the stored range reads as the byte stored there. -/
theorem State.readByte_store_inside (s : State) (sp : Space) (off : Nat) (bs : List Byte) {k : Nat} (h : k < bs.length) :
    (s.store sp off bs).readByte sp (off + k) = bs[k] := by
  simp [State.readByte, Mem.get?_write_inside _ _ _ h, h]

/-- The stored bytes, read back. -/
theorem State.read_store_same (s : State) (sp : Space) (off : Nat) (bs : List Byte) :
    (s.store sp off bs).read sp off bs.length = bs := by
  apply List.ext_getElem (by simp [State.read])
  intro k h1 h2
  simp [State.read, State.readByte_store_inside, h2]

/-! ### `OUT` after a command has ended -/

/-- Reading cells laid down one after another. -/
theorem Mem.get?_range' (f : Nat → Byte) (a n b : Nat) :
    Mem.get? ((List.range' b n).map fun x => (x, f x)) a = if b ≤ a ∧ a < b + n then some (f a) else none := by
  induction n generalizing b with
  | zero => simp [Mem.get?]
  | succ n ih =>
    simp only [List.range'_succ, List.map_cons, Mem.get?, ih]
    by_cases h : b = a
    · subst h; simp
    · rw [if_neg h]; split_ifs <;> first | rfl | omega

theorem State.get?_outCells (s : State) (n a : Nat) :
    (s.outCells n).get? a = if a < n then some (s.readByte .out a) else none := by
  simpa [State.outCells, List.range_eq_range'] using Mem.get?_range' (fun x => s.readByte .out x) a n 0

theorem Mem.wf_range' (f : Nat → Byte) (n b : Nat) : Mem.wf ((List.range' b n).map fun x => (x, f x)) = true := by
  induction n generalizing b with
  | zero => rfl
  | succ n ih =>
    have := ih (b + 1)
    cases n with
    | zero => rfl
    | succ n => simp only [List.range'_succ, List.map_cons, Mem.wf] at this ⊢; simp [this]

/-- What a command's end keeps of `OUT` is in canonical form. -/
theorem State.wf_outCells (s : State) (n : Nat) : (s.outCells n).wf = true := by
  simpa [State.outCells, List.range_eq_range'] using Mem.wf_range' (fun x => s.readByte .out x) n 0

theorem State.below_outCells (s : State) {n m : Nat} (h : n ≤ m) : (s.outCells n).below m = true := by
  simp only [State.outCells, Mem.below, List.all_map, List.all_eq_true, List.mem_range, Function.comp_apply,
    decide_eq_true_eq]
  omega

/-- What the end of a command leaves of the buffers: `PW`, `IN` and the result. -/
theorem State.readByte_lapse (s : State) {sp : Space} {a : Nat} (h : sp = .out → a < s.outLen) :
    s.lapse.readByte sp a = s.readByte sp a := by
  cases sp with
  | pw => rfl
  | inp => rfl
  | out =>
    show ((s.outCells s.outLen).get? a).getD _ = _
    rw [State.get?_outCells, if_pos (h rfl)]; rfl

theorem State.readByte_complete (s : State) {sp : Space} {a : Nat} (h : sp = .out → a < s.outLen) :
    s.complete.readByte sp a = s.readByte sp a := by
  refine (State.readByte_lapse _ h).trans ?_
  cases sp <;> rfl

theorem State.readByte_raise (s : State) (e : Err) {sp : Space} {a : Nat} (h : sp ≠ .out) :
    (s.raise e).readByte sp a = s.readByte sp a := by
  refine (State.readByte_lapse _ fun hs => absurd hs h).trans ?_
  cases sp <;> rfl

/-- Reset memory is in canonical form. -/
theorem State.reset_mem_wf (sp : Space) : (State.reset.mem sp).wf = true := by
  cases sp <;> rfl

end Sys2Proof.Machine
end

