-- ==== Sys2Proof/Laws/Ops.lean ====
section
/-! SUPPORT. One lemma per shared operation that says everything it can do, for citing instead of unfolding. -/

namespace Sys2Proof.Machine

theorem State.reading_fits (s : State) {sp : Space} {off n : Nat} (k : List Byte → Out) (h : off + n ≤ s.caps.cap sp) :
    s.reading sp off n k = k (s.read sp off n) := if_pos h

theorem State.writing_fits (s : State) {sp : Space} {off : Nat} {bs : List Byte} (k : State → Out)
    (h : off + bs.length ≤ s.caps.cap sp) : s.writing sp off bs k = k (s.store sp off bs) := if_pos h

/-- A read that goes on fits in the buffer. -/
theorem State.reading_next {s : State} {sp : Space} {off n : Nat} {k : List Byte → Out} {t : State}
    (h : s.reading sp off n k = .next t) : off + n ≤ s.caps.cap sp ∧ k (s.read sp off n) = .next t := by
  unfold State.reading at h
  split at h
  · exact ⟨‹_›, h⟩
  · cases h

/-- A write that goes on fits in the buffer. -/
theorem State.writing_next {s : State} {sp : Space} {off : Nat} {bs : List Byte} {k : State → Out} {t : State}
    (h : s.writing sp off bs k = .next t) :
    off + bs.length ≤ s.caps.cap sp ∧ k (s.store sp off bs) = .next t := by
  unfold State.writing at h
  split at h
  · exact ⟨‹_›, h⟩
  · cases h

/-- A command that goes on was issued while `BUSY = 0`. -/
theorem State.whenIdle_next {s : State} {k : Out} {t : State} (h : s.whenIdle k = .next t) :
    s.busy = false ∧ k = .next t := by
  unfold State.whenIdle at h
  cases hb : s.busy with
  | true => rw [hb] at h; cases h
  | false => rw [hb] at h; exact ⟨rfl, h⟩

theorem State.whenIdle_idle {s : State} (k : Out) (h : s.busy = false) : s.whenIdle k = k := by
  simp [State.whenIdle, h]

@[simp] theorem State.length_read (s : State) (sp : Space) (off n : Nat) : (s.read sp off n).length = n := by
  simp [State.read]

/-- Reading `a + b` bytes is reading `a` and then `b`. -/
theorem State.read_add (s : State) (sp : Space) (off a b : Nat) :
    s.read sp off (a + b) = s.read sp off a ++ s.read sp (off + a) b := by
  simp [State.read, List.range_add, Nat.add_assoc, Function.comp_def]

/-- A read sees only the bytes of its range. -/
theorem State.read_congr {s t : State} {sp : Space} {off n : Nat}
    (h : ∀ k < n, t.readByte sp (off + k) = s.readByte sp (off + k)) : t.read sp off n = s.read sp off n := by
  simp only [State.read]
  exact List.map_congr_left fun k hk => h k (List.mem_range.mp hk)

end Sys2Proof.Machine
end

