-- ==== Sys2Proof/Laws/PerInstr.lean ====
section
/-! SUPPORT. The per-instruction family CodeRoundTrip: an instruction's byte, read in its own format, is that instruction. -/

namespace Sys2Proof.Laws.CodeRoundTrip

/-- The encoding of `i` decodes to `i` and leaves what follows it, its table word is `i`, and `i` is well formed. -/
def Statement (i : Sys2Proof.Instr) : Prop :=
  (∀ rest : List Byte, Sys2Proof.decode i.format (Sys2Proof.encode i ++ rest) = .ok (i, rest))
    ∧ decodeTableWord 8 i.code.toNat = some i
    ∧ i.wellFormed = true

theorem derive : Statement .derive := ⟨fun _ => rfl, rfl, rfl⟩
theorem encode : Statement .encode := ⟨fun _ => rfl, rfl, rfl⟩
theorem decode : Statement .decode := ⟨fun _ => rfl, rfl, rfl⟩
theorem kdfRun : Statement .kdfRun := ⟨fun _ => rfl, rfl, rfl⟩
theorem pbkdf2F : Statement .pbkdf2F := ⟨fun _ => rfl, rfl, rfl⟩
theorem hmac : Statement .hmac := ⟨fun _ => rfl, rfl, rfl⟩
theorem sha256Hash : Statement .sha256Hash := ⟨fun _ => rfl, rfl, rfl⟩
theorem sha256Compress : Statement .sha256Compress := ⟨fun _ => rfl, rfl, rfl⟩
theorem kdfSplit : Statement .kdfSplit := ⟨fun _ => rfl, rfl, rfl⟩
theorem aesKeyexp : Statement .aesKeyexp := ⟨fun _ => rfl, rfl, rfl⟩
theorem aesEncblk : Statement .aesEncblk := ⟨fun _ => rfl, rfl, rfl⟩
theorem aesDecblk : Statement .aesDecblk := ⟨fun _ => rfl, rfl, rfl⟩
theorem cbcInit : Statement .cbcInit := ⟨fun _ => rfl, rfl, rfl⟩
theorem cbcEncstep : Statement .cbcEncstep := ⟨fun _ => rfl, rfl, rfl⟩
theorem cbcDecstep : Statement .cbcDecstep := ⟨fun _ => rfl, rfl, rfl⟩
theorem padApply : Statement .padApply := ⟨fun _ => rfl, rfl, rfl⟩
theorem padInspect : Statement .padInspect := ⟨fun _ => rfl, rfl, rfl⟩
theorem rngSalt : Statement .rngSalt := ⟨fun _ => rfl, rfl, rfl⟩
theorem ctrFormat : Statement .ctrFormat := ⟨fun _ => rfl, rfl, rfl⟩
theorem ctrParse : Statement .ctrParse := ⟨fun _ => rfl, rfl, rfl⟩

end Sys2Proof.Laws.CodeRoundTrip
end

