-- ==== Sys2Proof/Laws/Step.lean ====
section
/-! SUPPORT. What a step can do, said once: the inversion of the turn and of a step. -/

namespace Sys2Proof.Machine

/-- A write to `CMD` that decodes is the code of its instruction. -/
theorem decode_cmd_ok {b : Byte} {i : Instr} {rest : List Byte} (h : Sys2Proof.decode .cmd [b] = .ok (i, rest)) :
    i.format = .cmd ∧ b = i.code := by
  have key : ∀ b : Byte, ∀ i, findRow cmdRows b = some i → i.format = .cmd ∧ b = i.code := by decide +kernel
  simp only [Sys2Proof.decode, decodeCmd] at h
  cases hf : findRow cmdRows b with
  | none => rw [hf] at h; cases h
  | some j => rw [hf] at h; cases h; exact key b _ hf

/-- A content of `PHASE` that decodes is the code of its instruction. -/
theorem decode_uop_ok {b : Byte} {i : Instr} {rest : List Byte} (h : Sys2Proof.decode .uop [b] = .ok (i, rest)) :
    i.format = .uop ∧ b = i.code := by
  have key : ∀ b : Byte, ∀ i, findRow uopRows b = some i → i.format = .uop ∧ b = i.code := by decide +kernel
  simp only [Sys2Proof.decode, decodeUop] at h
  cases hf : findRow uopRows b with
  | none => rw [hf] at h; cases h
  | some j => rw [hf] at h; cases h; exact key b _ hf

/-- SEQ's turn: the micro-operation at `PHASE`, or nothing. -/
def State.SeqMoves (s t : State) : Prop :=
  (s.running = false ∧ t = s) ∨ (s.running = true ∧ ∃ i : Instr, i.format = .uop ∧ s.phase = i.code ∧ exec i s = .next t)

/-- HOST's access other than a command: what it may change. -/
def State.HostMoves (s t : State) : Prop :=
  ∃ pwLen inLen pw inp seen,
    t = { s with pwLen := pwLen, inLen := inLen, pw := pw, inp := inp, host := s.host.tail, seen := seen }

theorem State.seqTurn_run {s u : State} {i : Instr} (h : s.seqTurn = .run i u) :
    u = s ∧ s.running = true ∧ i.format = .uop ∧ s.phase = i.code := by
  unfold State.seqTurn at h
  split at h
  · split at h
    · rename_i hd
      cases h
      exact ⟨rfl, ‹_›, (decode_uop_ok hd).1, (decode_uop_ok hd).2⟩
    · cases h
  · cases h

theorem State.seqTurn_took {s t : State} (h : s.seqTurn = .took (.next t)) : s.running = false ∧ t = s := by
  unfold State.seqTurn at h
  split at h
  · split at h <;> cases h
  · cases h; exact ⟨by simpa using ‹¬ s.running = true›, rfl⟩

theorem State.hostReadReg_next {s t : State} {no : Nat} (h : s.hostReadReg no = .next t) : ∃ v, t = s.give v := by
  unfold State.hostReadReg at h
  split at h
  · cases h
  · split at h
    · cases h; exact ⟨_, rfl⟩
    · cases h

theorem State.hostReadBuf_next {s t : State} {sp : Space} {off n : Nat} (h : s.hostReadBuf sp off n = .next t) :
    s.busy = false ∧ ∃ v, t = s.give v := by
  unfold State.hostReadBuf at h
  split at h
  · cases h
  · split at h
    · cases h; exact ⟨by simpa using ‹¬ s.busy = true›, _, rfl⟩
    · cases h

theorem State.hostWriteBuf_next {s t : State} {sp : Space} {off : Nat} {bs : List Byte}
    (h : s.hostWriteBuf sp off bs = .next t) :
    s.busy = false ∧ sp ≠ .out ∧ off + bs.length ≤ s.caps.cap sp ∧ t = s.store sp off bs := by
  unfold State.hostWriteBuf at h
  split_ifs at h with h1 h2 h3
  cases h
  exact ⟨by simpa using h1, h2, h3, rfl⟩

theorem State.writeRegIdle_next {s t : State} {no v : Nat} (h : s.writeRegIdle no v = .next t) :
    (v ≤ s.caps.pwMax ∧ t = { s with pwLen := v }) ∨ (v ≤ s.caps.inMax ∧ t = { s with inLen := v }) := by
  unfold State.writeRegIdle writeLen at h
  split at h <;> (try split at h) <;> cases h
  · exact .inl ⟨‹_›, rfl⟩
  · exact .inr ⟨‹_›, rfl⟩

theorem State.cmdTurn_run {s u : State} {i : Instr} {v : Nat} (h : s.cmdTurn v = .run i u) :
    u = s ∧ s.busy = false ∧ v < 256 ∧ i.format = .cmd ∧ BitVec.ofNat 8 v = i.code := by
  unfold State.cmdTurn at h
  split at h
  · cases h
  · split at h
    · split at h
      · rename_i hd
        cases h
        exact ⟨rfl, by simpa using ‹¬ s.busy = true›, ‹_›, (decode_cmd_ok hd).1, (decode_cmd_ok hd).2⟩
      · cases h
    · cases h

theorem State.cmdTurn_took {s t : State} {v : Nat} (h : s.cmdTurn v = .took (.next t)) : False := by
  unfold State.cmdTurn at h
  split at h
  · cases h
  · split at h
    · split at h <;> cases h
    · cases h

/-- Everything a step that goes on can be: SEQ's move (HOST doing nothing, or standing still for one step, or polling), a
command, the reset input, or another access of HOST's, made while `BUSY = 0` unless it is a read of `STATUS`. -/
theorem step_next {s t : State} (h : step s = .next t) :
    ((s.host = [] ∨ ∃ rest, s.host = .wait :: rest ∧ s.done = false) ∧ s.SeqMoves t)
    ∨ (∃ rest, s.host = .pass :: rest ∧ { s with host := rest }.SeqMoves t)
    ∨ (∃ v rest, ∃ i : Instr, s.host = .writeReg 0x00 v :: rest ∧ s.busy = false ∧ v < 256 ∧ i.format = .cmd
        ∧ BitVec.ofNat 8 v = i.code ∧ exec i { s with host := rest } = .next t)
    ∨ (∃ rest, s.host = .reset :: rest ∧ t = { s with host := rest }.resetEvent)
    ∨ (s.host ≠ [] ∧ s.HostMoves t
        ∧ (s.busy = false ∨ ∃ v, t = { s with host := s.host.tail, seen := v :: s.seen })) := by
  have seq : ∀ u : State, (∀ i v, u.seqTurn = .run i v → exec i v = .next t → u.SeqMoves t)
      ∧ ∀ o, u.seqTurn = .took o → o = .next t → u.SeqMoves t := by
    intro u
    refine ⟨fun i v hr he => ?_, fun o ho hn => ?_⟩
    · obtain ⟨rfl, h1, h2, h3⟩ := State.seqTurn_run hr
      exact .inr ⟨h1, i, h2, h3, he⟩
    · subst hn
      exact .inl (State.seqTurn_took ho)
  unfold step at h
  unfold State.turn at h
  split at h
  · -- a turn that runs an instruction
    rename_i i u ht
    split at ht
    · exact .inl ⟨.inl ‹_›, (seq s).1 i u ht h⟩
    · exact .inr (.inl ⟨_, ‹_›, (seq _).1 i u ht h⟩)
    · split at ht
      · cases ht
      · exact .inl ⟨.inr ⟨_, ‹_›, by simpa using ‹¬ s.done = true›⟩, (seq s).1 i u ht h⟩
    · cases ht
    · obtain ⟨rfl, h1, h2, h3, h4⟩ := State.cmdTurn_run ht
      exact .inr (.inr (.inl ⟨_, _, i, ‹_›, h1, h2, h3, h4, h⟩))
    · split at ht <;> cases ht
    all_goals cases ht
  · -- a turn that runs none
    rename_i o ht
    subst h
    split at ht
    · exact .inl ⟨.inl ‹_›, (seq s).2 _ ht rfl⟩
    · exact .inr (.inl ⟨_, ‹_›, (seq _).2 _ ht rfl⟩)
    · rename_i rest hh
      split at ht
      · obtain ⟨v, rfl⟩ := State.hostReadReg_next (Turn.took.inj ht)
        refine .inr (.inr (.inr (.inr ⟨by simp [hh], ⟨s.pwLen, s.inLen, s.pw, s.inp, v :: s.seen, ?_⟩, .inr ⟨v, ?_⟩⟩)))
          <;> simp [State.give, hh]
      · exact .inl ⟨.inr ⟨_, hh, by simpa using ‹¬ s.done = true›⟩, (seq s).2 _ ht rfl⟩
    · cases ht; exact .inr (.inr (.inr (.inl ⟨_, ‹_›, rfl⟩)))
    · exact (State.cmdTurn_took ht).elim
    · rename_i no v rest _ hh
      split at ht
      · cases ht
      · rename_i hb
        rcases State.writeRegIdle_next (Turn.took.inj ht) with ⟨_, rfl⟩ | ⟨_, rfl⟩
        · exact .inr (.inr (.inr (.inr ⟨by simp [hh], ⟨v, s.inLen, s.pw, s.inp, s.seen, by simp [hh]⟩,
            .inl (by simpa using hb)⟩)))
        · exact .inr (.inr (.inr (.inr ⟨by simp [hh], ⟨s.pwLen, v, s.pw, s.inp, s.seen, by simp [hh]⟩,
            .inl (by simpa using hb)⟩)))
    · rename_i hh
      obtain ⟨v, rfl⟩ := State.hostReadReg_next (Turn.took.inj ht)
      refine .inr (.inr (.inr (.inr ⟨by simp [hh], ⟨s.pwLen, s.inLen, s.pw, s.inp, v :: s.seen, ?_⟩, .inr ⟨v, ?_⟩⟩)))
        <;> simp [State.give, hh]
    · rename_i sp off bs rest hh
      obtain ⟨hb, hsp, _, rfl⟩ := State.hostWriteBuf_next (Turn.took.inj ht)
      refine .inr (.inr (.inr (.inr ⟨by simp [hh], ?_, .inl hb⟩)))
      cases sp with
      | pw => exact ⟨s.pwLen, s.inLen, s.pw.write off bs, s.inp, s.seen, by simp [hh, State.store, State.putMem, State.mem]⟩
      | inp => exact ⟨s.pwLen, s.inLen, s.pw, s.inp.write off bs, s.seen, by simp [hh, State.store, State.putMem, State.mem]⟩
      | out => exact absurd rfl hsp
    · rename_i hh
      obtain ⟨hb, v, rfl⟩ := State.hostReadBuf_next (Turn.took.inj ht)
      exact .inr (.inr (.inr (.inr ⟨by simp [hh], ⟨s.pwLen, s.inLen, s.pw, s.inp, v :: s.seen, by simp [State.give, hh]⟩,
        .inl hb⟩)))
    · rename_i hh
      obtain ⟨hb, v, rfl⟩ := State.hostReadBuf_next (Turn.took.inj ht)
      exact .inr (.inr (.inr (.inr ⟨by simp [hh], ⟨s.pwLen, s.inLen, s.pw, s.inp, v :: s.seen, by simp [State.give, hh]⟩,
        .inl hb⟩)))

end Sys2Proof.Machine
end

