-- ==== Sys2Proof/Tests/Slice0.lean ====
section
/-! SUPPORT. Small tests: ill-formed terms the checks refuse, words written out from the spec's encodings, single steps with
results printed in the spec (95_test_vectors.md unless a rule is named), and witnesses that the hypotheses of the statements
can be met. -/

open Sys2Proof Sys2Proof.Machine

namespace Sys2Proof.Tests

-- The long kernel evaluations run one after another.
set_option Elab.async false

/-! ### Helpers -/

/-- The state after, if there is one. -/
def after : Out → Option State
  | .next t => some t
  | .fault _ => none
  | .refused _ => none

/-- What is read of the state after. -/
def seeing {α : Type} (o : Out) (f : State → α) : Option α := (after o).map f

/-- The refusal, if the step is refused. -/
def refusal : Out → Option Refusal
  | .next _ => none
  | .fault _ => none
  | .refused r => some r

/-- `n` bytes, most significant first. -/
def big (n : Nat) (v : Nat) : Bytes n := Vec.ofFn n fun k => BitVec.ofNat 8 (v / 256 ^ (n - 1 - k))

/-- The bytes laid down from address 0. -/
def cells (l : List Byte) : Mem := l.zipIdx.map fun p => (p.2, p.1)

/-- The password "secret". -/
def secret : List Byte := [0x73, 0x65, 0x63, 0x72, 0x65, 0x74]

/-- The salt of the vectors. -/
def salt8 : Bytes 8 := big 8 0x0102030405060708

/-- "hello world". -/
def hello : List Byte := [0x68, 0x65, 0x6c, 0x6c, 0x6f, 0x20, 0x77, 0x6f, 0x72, 0x6c, 0x64]

/-- The container of section 8.1. -/
def container : List Byte :=
  (big 32 0x53616c7465645f5f0102030405060708eeae70913c9343c0e0d882060ee65595).val

/-- The reset state with a password and an input loaded, and a draw laid down. -/
def loaded (pw input : List Byte) : State :=
  { State.reset with
    pw := cells pw, pwLen := pw.length, inp := cells input, inLen := input.length, rng := [salt8] }

/-- Inside the microprogram of `cmd`, at `phase`. -/
def inside (cmd phase : Byte) (s : State) : State := { s with curCmd := cmd, phase := phase, status := 0x01 }

/-- The key `00 01 .. 1f`. -/
def key1 : Bytes 32 := Vec.ofFn 32 fun k => BitVec.ofNat 8 k

/-- The key of section 4. -/
def key4 : Bytes 32 := big 32 0x603deb1015ca71be2b73aef0857d77811f352c073b6108d72d9810a30914dff4

/-! ### Static checks: each part of a check refuses its term -/

theorem test_cfg_ok : Config.cfg.wellFormed = true := by decide
theorem test_cfg_dklen : { Config.cfg with dkLen := 47 }.wellFormed = false := by decide
theorem test_cfg_ivlen : { Config.cfg with ivLen := 15, dkLen := 47 }.wellFormed = false := by decide
theorem test_cfg_hdrlen : { Config.cfg with hdrLen := 17 }.wellFormed = false := by decide
theorem test_cfg_iter : { Config.cfg with iter := 0 }.wellFormed = false := by decide
theorem test_caps_ok : Config.resetCaps.wellFormed = true := by decide
theorem test_caps_pw : { Config.resetCaps with pwMax := 2 ^ 61, lenBits := 62 }.wellFormed = false := by decide
theorem test_caps_in : { Config.resetCaps with inMax := 15 }.wellFormed = false := by decide
theorem test_caps_out : { Config.resetCaps with outMax := 65567 }.wellFormed = false := by decide
theorem test_caps_bits : { Config.resetCaps with lenBits := 16 }.wellFormed = false := by decide

/-! ### Decoding: the words written out bit by bit from 30_encoding.md R95, R96 -/

theorem test_word_derive : decode .cmd [0b00000001#8] = .ok (.derive, []) := by decide
theorem test_word_decode : decode .cmd [0b00000011#8, 0xff] = .ok (.decode, [0xff]) := by decide
theorem test_word_kdfRun : decode .uop [0b00010000#8] = .ok (.kdfRun, []) := by decide
theorem test_word_aesDecblk : decode .uop [0b00100010#8] = .ok (.aesDecblk, []) := by decide
theorem test_word_cbcEncstep : decode .uop [0b00110001#8] = .ok (.cbcEncstep, []) := by decide
theorem test_word_padInspect : decode .uop [0b01000001#8] = .ok (.padInspect, []) := by decide
theorem test_word_ctrParse : decode .uop [0b01010010#8] = .ok (.ctrParse, []) := by decide
/-- R100: `0x04` is reserved, and the code of a micro-operation is no command. -/
theorem test_word_reserved : decode .cmd [0x04] = .error (.reservedCommand 0x04)
    ∧ decode .cmd [0x10] = .error (.reservedCommand 0x10) ∧ decode .uop [0x01] = .error (.reservedPhase 0x01)
    ∧ decode .uop [0xF0] = .error (.reservedPhase 0xF0) := by decide

/-- Every row of the table runs as the first instruction after reset. -/
theorem test_first_step : [0x01, 0x02, 0x03, 0x10, 0x11, 0x12, 0x13, 0x14, 0x15, 0x20, 0x21, 0x22, 0x30, 0x31, 0x32, 0x40,
    0x41, 0x50, 0x51, 0x52].map (fun w => (after (step (State.reset.withFetchWord 8 w))).isSome) = List.replicate 20 true := by
  decide +kernel

/-! ### Family KDF -/

/-- The hash unit holding the padded message "abc" and the initial chaining value (R135). -/
def abcBlock : ShaRegs := { ShaRegs.reset with h := iv256, blk := Bytes.ofList 64 ([0x61, 0x62, 0x63] ++ shaPad 3) }

/-- R135's example: the chaining value and two words of the schedule. -/
theorem test_compress : seeing (exec .sha256Compress { State.reset with kdf := { KdfRegs.reset with sha := abcBlock } })
    (fun t => (t.kdf.sha.h, t.kdf.sha.w.at 0 17, t.phase))
    = some (⟨0xba7816bf, 0x8f01cfea, 0x414140de, 0x5dae2223, 0xb00361a3, 0x96177a9c, 0xb410ff61, 0xf20015ad⟩,
        0x000f0000, 0x13) := by
  decide +kernel

/-- Section 2.2: the working variables after round 0. -/
theorem test_round : shaRound (schedule abcBlock.blk) iv256 0
    = ⟨0x5d6aebcd, 0x6a09e667, 0xbb67ae85, 0x3c6ef372, 0xfa2a4622, 0x510e527f, 0x9b05688c, 0x1f83d9ab⟩ := by
  decide +kernel

/-- Section 2.3: 55 bytes fit one block, 56 need two. -/
theorem test_sha_pad : shaPad 55 = [0x80, 0, 0, 0, 0, 0, 0, 0x01, 0xb8]
    ∧ shaPad 56 = 0x80 :: (List.replicate 63 0 ++ [0, 0, 0, 0, 0, 0, 0x01, 0xc0]) := by decide +kernel

/-- Section 2.4: the digest of 56 bytes `61`, two blocks. -/
theorem test_hash : seeing (exec .sha256Hash
      { State.reset with kdf := { KdfRegs.reset with sha := { ShaRegs.reset with msg := List.replicate 56 0x61 } } })
    (fun t => t.kdf.sha.h.digest)
    = some (big 32 0xb35439a4ac6f0948b6d6f9e3c6af0f5f590ce20f1bde7090ef7970686ec6738a) := by
  decide +kernel

/-- Section 2.5: a password of 65 bytes is hashed first. -/
theorem test_hmac : seeing (exec .hmac { loaded ((List.range 65).map (BitVec.ofNat 8)) [] with
      kdf := { KdfRegs.reset with text := [0x61, 0x62, 0x63] } }) (fun t => t.kdf.sha.h.digest)
    = some (big 32 0xdfbffee4671bad00ed5d1e1999d55ed3b0cc774ac357f9ebf649c1612414fcec) := by
  decide +kernel

/-- Section 2.6: `T_2` with `ITER = 2`: the index, the loop and the running XOR. -/
theorem test_pbkdf2F : ({ KdfRegs.reset with i := 2 }.blockF { Config.cfg with iter := 2 } secret salt8).t
    = big 32 0x819a23f15bbef60650d8c585bc2953550dffff92554835e41fe427c8eb4c40b9 := by
  decide +kernel

/-- Section 2.6: `DKM` with `ITER = 1`: `T_1`, then the first 16 bytes of `T_2`. -/
theorem test_kdfRun : (KdfRegs.reset.run { Config.cfg with iter := 1 } secret salt8).2
    = big 48 0xa8779cf98a5e993cc0a463cd0e2828068bb0b1dff26d1b31aa005ae5cf392425a48f32eba2bbc4bd8321ae9382e92741 := by
  decide +kernel

/-- Sections 2.7 and 8.8: DERIVE returns the key first, then the IV. -/
theorem test_kdfSplit_derive : seeing
      (exec .kdfSplit (inside 0x01 0x15 { State.reset with dkm := Vec.ofFn 48 fun k => BitVec.ofNat 8 (k + 1) }))
    (fun t => (t.read .out 0 2, t.read .out 31 2, t.outLen, t.status, t.phase))
    = some ([1, 2], [32, 33], 48, 0x02, 0xF0) := by
  decide +kernel

/-- Section 8.7: a container of 17 bytes fails the length test, one of 32 bytes passes it. -/
theorem test_kdfSplit_decode : [17, 31, 16, 32].map (fun n =>
      seeing (exec .kdfSplit (inside 0x03 0x15 { State.reset with inLen := n })) fun t => (t.phase, t.status))
    = [some (0xF1, 0x0a), some (0xF1, 0x0a), some (0xF1, 0x0a), some (0x20, 0x01)] := by
  decide +kernel

/-! ### Family AES -/

/-- Section 3.2: round keys 2, 3 and 14. -/
theorem test_keyexp : seeing (exec .aesKeyexp { State.reset with dkm := key1.append (Bytes.zero 16) })
    (fun t => [2, 3, 14].map t.aes.roundKey)
    = some [big 16 0xa573c29fa176c498a97fce93a572c09c, big 16 0x1651a8cd0244beda1a5da4c10640bade,
            big 16 0x24fc79ccbf0979e9371ac23c6d68de36] := by
  decide +kernel

/-- Section 3.1. -/
theorem test_field : xtime 0x57 = 0xae ∧ xtime 0x80 = 0x1b ∧ gmul 0x57 0x83 = 0xc1 ∧ sbox 0x53 = 0xed
    ∧ invSbox 0xed = 0x53 := by decide +kernel

/-- Section 3.1: MixColumns on four columns, and back. -/
theorem test_mix : mixColumns (big 16 0xdb135345f20a225c01010101c6c6c6c6) = big 16 0x8e4da1bc9fdc589d01010101c6c6c6c6
    ∧ invMixColumns (big 16 0x8e4da1bc9fdc589d01010101c6c6c6c6) = big 16 0xdb135345f20a225c01010101c6c6c6c6 := by
  decide +kernel

/-- A cipher unit whose key is `key` and whose block operand is `x`. -/
def cipherUnit (key : Bytes 32) (x : Bytes 16) : AesRegs := { AesRegs.reset with rk := aesKeyExp key, s := x }

/-- Section 3.3. -/
theorem test_encblk : seeing
      (exec .aesEncblk { State.reset with aes := cipherUnit key1 (big 16 0x00112233445566778899aabbccddeeff) })
    (fun t => (t.aes.s, t.aes.r)) = some (big 16 0x8ea2b7ca516745bfeafc49904b496089, 14) := by
  decide +kernel

/-- Section 3.4. -/
theorem test_decblk : seeing
      (exec .aesDecblk { State.reset with aes := cipherUnit key1 (big 16 0x8ea2b7ca516745bfeafc49904b496089) })
    (fun t => (t.aes.s, t.aes.r)) = some (big 16 0x00112233445566778899aabbccddeeff, 0) := by
  decide +kernel

/-! ### Family CBC -/

/-- R201: `CHAIN` is the IV; ENCODE goes on to PAD.APPLY, DECODE to CBC.DECSTEP. -/
theorem test_cbcInit : [0x02, 0x03].map (fun c => seeing
      (exec .cbcInit (inside c 0x30 { State.reset with dkm := Vec.ofFn 48 fun k => BitVec.ofNat 8 k, blkN := 7 }))
      fun t => (t.chain, t.blkN, t.phase))
    = [some (Vec.ofFn 16 fun k => BitVec.ofNat 8 (32 + k), 0, 0x40),
       some (Vec.ofFn 16 fun k => BitVec.ofNat 8 (32 + k), 0, 0x32)] := by
  decide +kernel

/-- R202's example as block 0 of a message of 31 bytes (its block 1 follows). -/
theorem test_encstep : seeing
      (exec .cbcEncstep (inside 0x02 0x31
        { loaded [] ((big 16 0x6bc1bee22e409f96e93d7e117393172a).val ++ List.replicate 15 0x41) with
          chain := big 16 0x000102030405060708090a0b0c0d0e0f, aes := cipherUnit key4 (Bytes.zero 16) }))
    (fun t => (t.chain, t.read .out 16 16, t.blkN, t.phase))
    = some (big 16 0xf58c4c04d6e5f1ba779eabfb5f7bfbd6, (big 16 0xf58c4c04d6e5f1ba779eabfb5f7bfbd6).val, 1, 0x31) := by
  decide +kernel

/-- R203's example: `CHAIN` is the ciphertext block, not the plaintext. -/
theorem test_decstep : seeing
      (exec .cbcDecstep (inside 0x03 0x32
        { loaded [] (List.replicate 16 0 ++ (big 16 0xf58c4c04d6e5f1ba779eabfb5f7bfbd6).val) with
          chain := big 16 0x000102030405060708090a0b0c0d0e0f, aes := cipherUnit key4 (Bytes.zero 16) }))
    (fun t => (t.chain, t.read .out 0 16, t.blkN, t.phase))
    = some (big 16 0xf58c4c04d6e5f1ba779eabfb5f7bfbd6, (big 16 0x6bc1bee22e409f96e93d7e117393172a).val, 1, 0x41) := by
  decide +kernel

/-! ### Family PAD -/

/-- Section 5.1: the pad lengths. -/
theorem test_padApply : [0, 1, 11, 15, 16, 17, 31, 32].map (fun n =>
      seeing (exec .padApply { State.reset with inLen := n }) fun t => t.padLen)
    = [some 16, some 15, some 5, some 1, some 16, some 15, some 1, some 16] := by
  decide +kernel

/-- Section 5.1: "hello world" padded. -/
theorem test_padBlock : padBlock 11 hello = big 16 0x68656c6c6f20776f726c640505050505
    ∧ padApply hello = (big 16 0x68656c6c6f20776f726c640505050505).val := by
  decide +kernel

/-- Section 5.2, row by row. -/
theorem test_padCheck :
    [List.replicate 15 0 ++ [0x01], List.replicate 16 0x10, hello ++ List.replicate 5 0x05,
      List.replicate 28 0x41 ++ List.replicate 4 0x04, List.replicate 14 0 ++ [0x02, 0x02]].map padCheck
      = [some 1, some 16, some 5, some 4, some 2]
    ∧ [List.replicate 16 0, List.replicate 15 0 ++ [0x11], List.replicate 16 0xff, List.replicate 14 0 ++ [0x03, 0x02],
      0x0f :: List.replicate 15 0x10, List.replicate 16 0x41].map padCheck
      = [none, none, none, none, none, none] := by
  decide +kernel

/-- DECODE with 16 decrypted bytes `d` in `OUT`. -/
def decrypted (d : List Byte) : State := inside 0x03 0x41 { State.reset with inLen := 32, out := cells d }

/-- Sections 8.2 and 8.3: the end of DECODE. -/
theorem test_padInspect :
    seeing (exec .padInspect (decrypted (hello ++ List.replicate 5 0x05)))
      (fun t => (t.padOk, t.outLen, t.status, t.phase, t.output)) = some (true, 11, 0x02, 0xF0, hello)
    ∧ seeing (exec .padInspect (decrypted (big 16 0x43f0e762509a384e7807bcf37394c6dd).val))
      (fun t => (t.padOk, t.outLen, t.status, t.phase)) = some (false, 0, 0x0a, 0xF1) := by
  decide +kernel

/-! ### Family CTR -/

/-- R240: the draw, whatever it is, goes to `SALT`. -/
theorem test_rngSalt : seeing (exec .rngSalt { State.reset with rng := [salt8, Bytes.zero 8] })
    (fun t => (t.salt, t.rng, t.draws, t.phase)) = some (salt8, [Bytes.zero 8], 1, 0x10) := by
  decide +kernel

/-- Sections 6.1 and 7: the header, and the output lengths. -/
theorem test_ctrFormat : seeing (exec .ctrFormat (inside 0x02 0x51 { State.reset with salt := salt8, inLen := 16 }))
    (fun t => (t.read .out 0 16, t.outLen, t.status, t.phase)) = some (container.take 16, 48, 0x02, 0xF0) := by
  decide +kernel

/-- Section 6.2: the marker is not compared here; 15 bytes are too short. -/
theorem test_ctrParse : seeing (exec .ctrParse (inside 0x03 0x52 (loaded [] (List.replicate 8 0x58 ++ salt8.val))))
      (fun t => (t.salt, t.status, t.phase)) = some (salt8, 0x01, 0x10)
    ∧ seeing (exec .ctrParse (inside 0x03 0x52 (loaded [] (container.take 15)))) (fun t => (t.status, t.phase, t.outLen))
      = some (0x06, 0xF1, 0) := by
  decide +kernel

/-- Section 6.2: the same container under `CFG.STRICT_MARKER = 1`. -/
theorem test_ctrParse_strict : seeing
      ((inside 0x03 0x52 (loaded [] (List.replicate 8 0x58 ++ salt8.val))).ctrParse { Config.cfg with strictMarker := true })
      (fun t => (t.status, t.phase)) = some (0x06, 0xF1)
    ∧ seeing ((inside 0x03 0x52 (loaded [] container)).ctrParse { Config.cfg with strictMarker := true })
      (fun t => (t.salt, t.phase)) = some (salt8, 0x10) := by
  decide +kernel

/-! ### Commands and HOST -/

/-- Section 8.8: the salt length decides; `0x0e` is DerivationError. -/
theorem test_derive : [0, 7, 8, 9, 16].map (fun n => seeing (exec .derive (loaded secret (container.take n)))
      fun t => (t.status, t.phase, t.curCmd))
    = [some (0x0e, 0xF1, 0x01), some (0x0e, 0xF1, 0x01), some (0x01, 0x10, 0x01), some (0x0e, 0xF1, 0x01),
       some (0x0e, 0xF1, 0x01)] := by
  decide +kernel

/-- R260, section 9.2: an issue clears an old error. -/
theorem test_issue : seeing (exec .encode { loaded secret hello with status := 0x0a, phase := 0xF1, outLen := 5 })
      (fun t => (t.status, t.phase, t.curCmd, t.outLen)) = some (0x01, 0x50, 0x02, 0)
    ∧ seeing (exec .decode { loaded secret container with status := 0x02, phase := 0xF0 })
      (fun t => (t.status, t.phase, t.curCmd)) = some (0x01, 0x52, 0x03) := by
  decide +kernel

/-- R105: `LOAD IN` is a write to the buffer and one to the length register. -/
theorem test_load : HostMove.load .inp hello = [.writeBuf .inp 0 hello, .writeReg 0x03 11]
    ∧ HostMove.load .pw secret = [.writeBuf .pw 0 secret, .writeReg 0x02 6] := by
  decide +kernel

/-- R29: what HOST reads; `CFG_ITER` is 10000 and number `0x05` has no register. -/
theorem test_host_read : seeing (step { State.reset with status := 0x0a, host := [.readReg 0x01] }) State.seen
      = some [.reg 0x01 0x0a]
    ∧ seeing (step { State.reset with host := [.readReg 0x08] }) State.seen = some [.reg 0x08 10000]
    ∧ refusal (step { State.reset with host := [.readReg 0x05] }) = some .unassignedRegister
    ∧ refusal (step { State.reset with status := 0x01, host := [.readReg 0x04] }) = some .accessWhileBusy := by
  decide +kernel

/-- R267: `PW` cannot be read, `OUT_LEN` not written, `OUT` not read after an error. -/
theorem test_host_forbidden : refusal (step { State.reset with host := [.readBuf .pw 0 0] }) = some .accessForbidden
    ∧ refusal (step { State.reset with host := [.writeReg 0x04 0] }) = some .accessForbidden
    ∧ refusal (step { State.reset with status := 0x0a, phase := 0xF1, host := [.readOut] }) = some .accessForbidden
    ∧ refusal (step { State.reset with host := [.writeReg 0x00 0x04] }) = some .reservedCommand
    ∧ refusal (step { State.reset with host := [.writeReg 0x02 4097] }) = some .aboveCapacity := by
  decide +kernel

/-- Writing a buffer keeps the cells in order. -/
theorem test_write_order : (Mem.write [(1, 0x11), (5, 0x55)] 4 [0x44, 0x50, 0x66])
    = [(1, 0x11), (4, 0x44), (5, 0x50), (6, 0x66)] := by decide

/-! ### Witnesses: states and operands that meet the hypotheses of the statements (the name says of which) -/

/-- A machine at rest, "secret" and "hello world" loaded. -/
def atRest : State := loaded secret hello

/-- The same, inside ENCODE at RNG.SALT. -/
def atWork : State := inside 0x02 0x50 atRest

/-- HOST's next moves. -/
def with_host (s : State) (l : List HostMove) : State := { s with host := l }

theorem wit_StepRunsMicroOperation : (inside 0x03 0x10 atRest).running = true ∧ (inside 0x03 0x10 atRest).host = []
    ∧ Sys2Proof.decode .uop [(inside 0x03 0x10 atRest).phase] = .ok (.kdfRun, [])
    ∧ Sys2Proof.decode .uop [(inside 0x03 0x52 atRest).phase] = .ok (.ctrParse, []) := by decide +kernel

theorem wit_StepRunsMicroOperation_moves : ∀ m ∈ [HostMove.pass, .wait],
    (with_host atWork [m]).running = true ∧ (with_host atWork [m]).done = false ∧ (with_host atWork [m]).host = m :: []
    ∧ Sys2Proof.decode .uop [(with_host atWork [m]).phase] = .ok (.rngSalt, []) := by decide +kernel

theorem wit_StepRunsCommand : ∀ v ∈ [1, 2, 3], (with_host atRest [.writeReg 0x00 v]).busy = false ∧ v < 256
    ∧ (Sys2Proof.decode .cmd [BitVec.ofNat 8 v]).toOption.isSome = true := by decide +kernel

theorem wit_ReservedCommandRefused : ∀ v ∈ [0, 4, 255, 256], v ∉ [1, 2, 3]
    ∧ (with_host atRest [.writeReg 0x00 v]).busy = false
    ∧ refusal (step (with_host atRest [.writeReg 0x00 v])) = some .reservedCommand := by decide +kernel

theorem wit_IdleStays : ∀ p ∈ [0x00, 0xF0, 0xF1], { atRest with phase := p }.host = []
    ∧ { atRest with phase := p }.phase ∈ ([0x00, 0xF0, 0xF1] : List Byte) := by decide +kernel

theorem wit_ResetStrikesAnywhere : (with_host atWork [.reset]).busy = true
    ∧ seeing (step (with_host atWork [.reset])) (fun t => (t.status, t.phase, t.draws)) = some (0x00, 0x00, 0) := by
  decide +kernel

/-- A state inside a command meets the invariant, and steps. -/
theorem wit_StepKeepsInvariant : atWork.Inv ∧ atWork.host = [] ∧ (after (step atWork)).isSome = true := by
  refine ⟨⟨⟨by decide, by decide, by decide⟩, by decide, .inr (.inr (.inr ⟨by decide, rfl, rfl⟩)), ?_, ?_⟩, rfl,
    by decide +kernel⟩
  · constructor <;> decide
  · intro sp; cases sp <;> exact ⟨by decide, by decide⟩

/-- An idle state meets it too, and takes a command. -/
theorem wit_NoStepFaults : (with_host atRest [.writeReg 0x00 1]).Inv := by
  refine ⟨⟨by decide, by decide, by decide⟩, by decide, .inl ⟨rfl, rfl, rfl, rfl⟩, ?_, ?_⟩
  · constructor <;> intro h <;> exact absurd h (by decide)
  · intro sp; cases sp <;> exact ⟨by decide, by decide⟩

theorem wit_CommandTerminates : atWork.running = true ∧ atWork.host = [] := by decide +kernel

theorem wit_ExecKeepsOperands : ∀ i ∈ [Instr.encode, .hmac, .aesKeyexp, .padApply, .rngSalt],
    (after (exec i atRest)).isSome = true := by decide +kernel

theorem wit_OnlyRngSaltDraws : (after (exec .rngSalt atWork)).isSome = true ∧ (after (exec .padApply atWork)).isSome = true := by
  decide +kernel

theorem wit_MicroOperationStatus : Instr.padInspect.format = .uop ∧ Instr.padApply.format = .uop
    ∧ seeing (exec .padInspect (decrypted (List.replicate 16 0x10))) State.phase = some phaseDoneOk
    ∧ seeing (exec .padInspect (decrypted (List.replicate 16 0x00))) State.phase = some phaseDoneErr
    ∧ seeing (exec .padApply atWork) State.phase = some 0x31 := by decide +kernel

theorem wit_ErrorCauses :
    seeing (exec .derive (loaded secret [])) State.phase = some phaseDoneErr
    ∧ seeing (exec .ctrParse (inside 0x03 0x52 (loaded secret (container.take 15)))) State.phase = some phaseDoneErr
    ∧ seeing (exec .kdfSplit (inside 0x03 0x15 (loaded secret (container.take 16)))) State.phase = some phaseDoneErr
    ∧ seeing (exec .padInspect (decrypted (List.replicate 16 0x11))) State.phase = some phaseDoneErr := by decide +kernel

theorem wit_OnlyFourWriteOut : Instr.padInspect ∉ [Instr.kdfSplit, .cbcEncstep, .cbcDecstep, .ctrFormat]
    ∧ (after (exec .padInspect (decrypted (List.replicate 16 0x01)))).isSome = true := by decide +kernel

theorem wit_BusyRefusesHost : ∀ m ∈ [HostMove.writeReg 0x00 1, .writeReg 0x02 0, .readReg 0x04, .readReg 0x05,
      .writeBuf .pw 0 [], .readBuf .out 0 0, .readOut],
    (with_host atWork [m]).busy = true ∧ m ∉ [HostMove.readReg 0x01, .wait, .pass, .reset]
    ∧ refusal (step (with_host atWork [m])) = some .accessWhileBusy := by decide +kernel

theorem wit_StatusReadable : (with_host atWork [.readReg 0x01]).host = .readReg 0x01 :: []
    ∧ seeing (step (with_host atWork [.readReg 0x01])) State.seen = some [.reg 0x01 0x01] := by decide +kernel

/-- A finished command with 11 bytes of output. -/
def finished : State := { atRest with phase := 0xF0, status := 0x02, curCmd := 0x03, outLen := 11, out := cells hello }

theorem wit_OutReadableAfterSuccess : (with_host finished [.readBuf .out 4 7]).busy = false
    ∧ seeing (step (with_host finished [.readBuf .out 4 7])) State.seen = some [.bytes (hello.drop 4)]
    ∧ refusal (step (with_host finished [.readBuf .out 4 8])) = some .accessForbidden
    ∧ refusal (step (with_host finished [.readBuf .pw 0 1])) = some .accessForbidden := by decide +kernel

/-- READ OUT: the output after a success; refused before a completion and after an error. -/
theorem wit_OutReadableAfterSuccess_readOut : (with_host finished [.readOut]).busy = false
    ∧ seeing (step (with_host finished [.readOut])) State.seen = some [.bytes hello]
    ∧ seeing (step (with_host { finished with outLen := 0 } [.readOut])) State.seen = some [.bytes []]
    ∧ refusal (step (with_host atRest [.readOut])) = some .accessForbidden
    ∧ refusal (step (with_host { finished with status := 0x0a } [.readOut])) = some .accessForbidden := by decide +kernel

theorem wit_LengthWrites : atRest.busy = false
    ∧ seeing (step (with_host atRest [.writeReg 0x02 4096])) State.pwLen = some 4096
    ∧ refusal (step (with_host atRest [.writeReg 0x02 4097])) = some .aboveCapacity
    ∧ seeing (step (with_host atRest [.writeReg 0x03 65536])) State.inLen = some 65536
    ∧ refusal (step (with_host atRest [.writeReg 0x03 65537])) = some .aboveCapacity := by decide +kernel

theorem wit_LengthWrites_refused :
    (∀ no ∈ [0x01, 0x04, 0x08, 0x0F], refusal (step (with_host atRest [.writeReg no 0])) = some .accessForbidden)
    ∧ (∀ no ∈ [0x05, 0x07, 0x10, 0x11],
        refusal (step (with_host atRest [.writeReg no 0])) = some .unassignedRegister) := by decide +kernel

theorem wit_BufferWrites : atRest.busy = false ∧ Space.pw ≠ .out ∧ 4095 + [0x41#8].length ≤ atRest.caps.cap .pw
    ∧ seeing (step (with_host atRest [.writeBuf .pw 4095 [0x41]])) (fun t => (t.readByte .pw 4095, t.readByte .pw 0))
      = some (0x41, 0x73)
    ∧ refusal (step (with_host atRest [.writeBuf .pw 4095 [0x41, 0x42]])) = some .aboveCapacity
    ∧ refusal (step (with_host atRest [.writeBuf .out 0 []])) = some .accessForbidden
    ∧ refusal (step (with_host atRest [.writeBuf .out 65568 [0x41]])) = some .accessForbidden := by decide +kernel

/-- R29: every register HOST reads while idle, each with a value of its own; `CMD` gives some value. -/
theorem wit_RegisterReads : finished.busy = false
    ∧ [0x02, 0x03, 0x04, 0x08, 0x09, 0x0A, 0x0B, 0x0C, 0x0D, 0x0E].map
        (fun no => seeing (step (with_host { finished with outLen := 7 } [.readReg no])) State.seen)
      = [some [.reg 0x02 6], some [.reg 0x03 11], some [.reg 0x04 7], some [.reg 0x08 10000], some [.reg 0x09 48],
         some [.reg 0x0A 32], some [.reg 0x0B 16], some [.reg 0x0C 8], some [.reg 0x0D 16], some [.reg 0x0E 0]]
    ∧ seeing (step (with_host finished [.readReg 0x0F])) State.seen
      = some [.bytes [0x53, 0x61, 0x6c, 0x74, 0x65, 0x64, 0x5f, 0x5f]]
    ∧ (after (step (with_host finished [.readReg 0x00]))).isSome = true
    ∧ (∀ no ∈ [0x05, 0x06, 0x07, 0x10], refusal (step (with_host finished [.readReg no])) = some .unassignedRegister) := by
  decide +kernel

theorem wit_OutputStable : (with_host finished [.readOut]).running = false
    ∧ seeing (step (with_host finished [.readOut])) State.seen = some [.bytes hello] := by decide +kernel

theorem wit_HmacResult : State.reset.pwLen ≤ State.reset.caps.pwMax
    ∧ { State.reset with pwLen := 4096 }.pwLen ≤ State.reset.caps.pwMax := by decide

theorem wit_Pbkdf2FResult : atRest.pwLen ≤ atRest.caps.pwMax ∧ atRest.pwLen = 6 := by decide

theorem wit_KdfRunResult : atWork.pwLen ≤ atWork.caps.pwMax ∧ (after (exec .kdfRun atWork)).isSome = true := by
  decide +kernel

theorem wit_LongPasswordCollides : 64 < (List.replicate 65 0x61#8).length := by decide

theorem wit_KdfSplitInCodec : (inside 0x02 0x15 atRest).curCmd = 0x02
    ∧ (let s := inside 0x03 0x15 (loaded secret container); s.curCmd = 0x03 ∧ s.inLen - 16 ≠ 0 ∧ (s.inLen - 16) % 16 = 0)
    ∧ (let s := inside 0x03 0x15 (loaded secret (container.take 16)); s.curCmd = 0x03 ∧ s.inLen - 16 = 0)
    ∧ (let s := inside 0x03 0x15 (loaded secret (container.take 31)); s.curCmd = 0x03 ∧ (s.inLen - 16) % 16 ≠ 0) := by
  decide +kernel

theorem wit_KdfSplitInDerive : let s := { inside 0x01 0x15 atRest with caps := ⟨8, 16, 48, 8⟩ }
    s.curCmd = 0x01 ∧ 48 ≤ s.caps.outMax ∧ (after (exec .kdfSplit s)).isSome = true := by decide +kernel

theorem wit_CbcInitResult : (inside 0x02 0x30 atRest).curCmd = 0x02 ∧ (inside 0x03 0x30 atRest).curCmd = 0x03 := by decide

theorem wit_CbcEncstepResult : atRest.Sized ∧ atRest.blkN < paddedBlocks atRest.inLen
    ∧ (let s := { loaded [] (List.replicate 16 0x41) with blkN := 1 }; s.Sized ∧ s.blkN < paddedBlocks s.inLen) := by
  refine ⟨⟨by decide, by decide, by decide⟩, by decide, ⟨by decide, by decide, by decide⟩, by decide⟩

theorem wit_CbcDecstepResult : (loaded secret container).Sized
    ∧ (loaded secret container).blkN < ((loaded secret container).inLen - 16) / 16 := by
  refine ⟨⟨by decide, by decide, by decide⟩, by decide⟩

theorem wit_CbcInverse : ([] : List Byte).length % 16 = 0 ∧ (List.replicate 32 0x41#8).length % 16 = 0 := by decide

theorem wit_PadInspectResult :
    (decrypted (List.replicate 16 0x10)).inLen - 16 ≤ (decrypted (List.replicate 16 0x10)).caps.outMax
    ∧ padInspect ((decrypted (List.replicate 16 0x10)).read .out 0 16) = some []
    ∧ padInspect ((decrypted (List.replicate 16 0x00)).read .out 0 16) = none := by decide +kernel

theorem wit_RngSaltResult : atWork.rng = salt8 :: [] := by decide

theorem wit_CtrFormatResult : 16 ≤ atRest.caps.outMax := by decide

theorem wit_CtrParseResult : (loaded secret (container.take 16)).inLen = 16 ∧ (loaded secret (container.take 15)).inLen = 15
    ∧ (loaded secret (container.take 16)).inLen ≤ (loaded secret (container.take 16)).caps.inMax := by decide +kernel

theorem wit_StrictMarkerTest : { Config.cfg with strictMarker := true }.strictMarker = true
    ∧ (loaded secret container).input.take 8 = Config.marker.val
    ∧ (loaded secret (0x54 :: container.drop 1)).input.take 8 ≠ Config.marker.val
    ∧ 16 ≤ (loaded secret container).inLen ∧ (loaded secret container).inLen ≤ (loaded secret container).caps.inMax := by
  decide +kernel

theorem wit_DeriveIssue : (loaded secret salt8.val).Sized ∧ (loaded secret salt8.val).busy = false
    ∧ (loaded secret salt8.val).inLen = 8 ∧ atRest.Sized ∧ atRest.busy = false ∧ atRest.inLen ≠ 8 := by
  refine ⟨⟨by decide, by decide, by decide⟩, by decide, by decide, ⟨by decide, by decide, by decide⟩, by decide, by decide⟩

theorem wit_CodecIssue : atRest.busy = false ∧ finished.busy = false := by decide

/-- For DeriveCommand, EncodeCommand and DecodeCommand. -/
theorem wit_Commands : finished.Sized ∧ finished.busy = false ∧ finished.host = [] := by
  refine ⟨⟨by decide, by decide, by decide⟩, by decide, rfl⟩

theorem wit_NothingCarriesOver : Instr.encode.format = .cmd ∧ atRest.Sized ∧ finished.Sized
    ∧ atRest.busy = false ∧ finished.busy = false ∧ atRest.host = [] ∧ finished.host = []
    ∧ (after (exec .encode atRest)).isSome = true ∧ (after (exec .encode finished)).isSome = true
    ∧ atRest.password = finished.password ∧ atRest.input = finished.input ∧ atRest.nextDraw = finished.nextDraw
    ∧ atRest ≠ finished := by
  refine ⟨rfl, ⟨by decide, by decide, by decide⟩, ⟨by decide, by decide, by decide⟩, ?_⟩
  decide +kernel

/-- A container that decodes, in a configuration with one iteration. -/
theorem wit_OutputLengths : (decodeFn { Config.cfg with iter := 1 } []
      (big 32 0x53616c7465645f5f01020304050607080a70135987f0e34bac77d289f99a4a98).val).toOption = some [] := by
  decide +kernel

end Sys2Proof.Tests
end

section
/-! SUPPORT. What an instruction that goes on can do, said once: the registers a micro-operation works on, where its
command goes on (45_commands.md R264) or how it ends. -/

namespace Sys2Proof.Machine

/-! ### The work of a micro-operation -/

/-- `u` is `s` but for the registers HOST cannot see, the random source and `OUT`: what a micro-operation works on before
the command goes on or ends. -/
def State.Works (s u : State) : Prop :=
  u = { s with padOk := u.padOk, padLen := u.padLen, blkN := u.blkN, salt := u.salt, dkm := u.dkm, chain := u.chain,
               kdf := u.kdf, aes := u.aes, out := u.out, rng := u.rng, draws := u.draws }

section
variable {s u : State}

theorem State.Works.phase (h : s.Works u) : u.phase = s.phase := (congrArg State.phase h :)
theorem State.Works.curCmd (h : s.Works u) : u.curCmd = s.curCmd := (congrArg State.curCmd h :)
theorem State.Works.status (h : s.Works u) : u.status = s.status := (congrArg State.status h :)
theorem State.Works.pwLen (h : s.Works u) : u.pwLen = s.pwLen := (congrArg State.pwLen h :)
theorem State.Works.inLen (h : s.Works u) : u.inLen = s.inLen := (congrArg State.inLen h :)
theorem State.Works.outLen (h : s.Works u) : u.outLen = s.outLen := (congrArg State.outLen h :)
theorem State.Works.pw (h : s.Works u) : u.pw = s.pw := (congrArg State.pw h :)
theorem State.Works.inp (h : s.Works u) : u.inp = s.inp := (congrArg State.inp h :)
theorem State.Works.caps (h : s.Works u) : u.caps = s.caps := (congrArg State.caps h :)
theorem State.Works.epoch (h : s.Works u) : u.epoch = s.epoch := (congrArg State.epoch h :)
theorem State.Works.lapses (h : s.Works u) : u.lapses = s.lapses := (congrArg State.lapses h :)

theorem State.Works.refl (s : State) : s.Works s := rfl
theorem State.works_kdf (s : State) (r : KdfRegs) (dkm : Bytes 48) : s.Works { s with kdf := r, dkm := dkm } := rfl
theorem State.works_encStep (s : State) (p : Bytes 16) : s.Works (s.encStep p) := rfl
theorem State.works_decStep (s : State) (c : Bytes 16) : s.Works (s.decStep c) := rfl

theorem State.Works.store (h : s.Works u) (off : Nat) (bs : List Byte) : s.Works (u.store .out off bs) := by
  unfold State.Works at h ⊢
  rw [h]
  rfl

/-- Where nothing is stored in `OUT`, every byte of every buffer reads as before. -/
theorem State.Works.readByte (h : s.Works u) (ho : u.out = s.out) (sp : Space) (a : Nat) :
    u.readByte sp a = s.readByte sp a := by
  cases sp <;> simp [State.readByte, State.mem, State.stamp, ho, h.pw, h.inp, h.epoch, h.lapses]

end

/-- The position `p` that follows the micro-operation `i` in the command that `s` runs (R264), `u` being the state after
its work: with the tests on the way there and the block index. -/
def State.GoesTo (s u : State) (p : Byte) : Instr → Prop
  | .derive | .encode | .decode | .ctrFormat | .padInspect => False
  | .sha256Compress => p = Instr.sha256Hash.code
  | .sha256Hash => p = Instr.hmac.code
  | .hmac => p = Instr.pbkdf2F.code
  | .pbkdf2F | .rngSalt => p = Instr.kdfRun.code
  | .ctrParse => p = Instr.kdfRun.code ∧ 16 ≤ s.inLen
  | .kdfRun => p = Instr.kdfSplit.code
  | .kdfSplit => p = Instr.aesKeyexp.code
      ∧ (s.curCmd = Instr.encode.code ∨ s.curCmd = Instr.decode.code ∧ s.badCipherLen = false)
  | .aesKeyexp => p = Instr.cbcInit.code
  | .cbcInit => u.blkN = 0
      ∧ (s.curCmd = Instr.encode.code ∧ p = Instr.padApply.code
        ∨ s.curCmd = Instr.decode.code ∧ p = Instr.cbcDecstep.code)
  | .padApply | .aesEncblk => p = Instr.cbcEncstep.code ∧ u.blkN = s.blkN
  | .aesDecblk => p = Instr.cbcDecstep.code ∧ u.blkN = s.blkN
  | .cbcEncstep => p = Instr.cbcEncstep.code ∧ u.blkN < paddedBlocks s.inLen ∨ p = Instr.ctrFormat.code
  | .cbcDecstep => p = Instr.cbcDecstep.code ∧ u.blkN < s.cipherLen / 16 ∨ p = Instr.padInspect.code

/-- After its work, `u`, a micro-operation goes on to its successor, completes the command, or raises the error its test
names (R300 to R303). -/
def State.Leaves (s u : State) (i : Instr) (t : State) : Prop :=
  (∃ p, s.GoesTo u p i ∧ t = u.goto p)
    ∨ (∃ n, (s.Sized → n ≤ s.caps.outMax) ∧ t = State.complete { u with outLen := n })
    ∨ (i = .ctrParse ∧ s.inLen < 16 ∧ t = u.raise .formatError)
    ∨ (i = .kdfSplit ∧ s.curCmd = Instr.decode.code ∧ s.badCipherLen = true ∧ t = u.raise .paddingError)
    ∨ (i = .padInspect ∧ u.padOk = false ∧ t = u.raise .paddingError)

/-- What a micro-operation that goes on has done: it worked, within the capacity of `OUT` and on `OUT` only where it is
one of the four that write it, and left. -/
structure State.Did (s u : State) (i : Instr) (t : State) : Prop where
  works : s.Works u
  memOk : s.MemOk .out → u.MemOk .out
  out : i ∉ [Instr.kdfSplit, .cbcEncstep, .cbcDecstep, .ctrFormat] → u.out = s.out
  leaves : s.Leaves u i t

/-- Storing within the capacity keeps `OUT` in canonical form and below its capacity. -/
theorem State.MemOk.store {s : State} {sp : Space} {off : Nat} {bs : List Byte} (hb : off + bs.length ≤ s.caps.cap sp)
    (h : s.MemOk sp) : (s.store sp off bs).MemOk sp := by
  obtain ⟨hwf, hbelow⟩ := h
  exact ⟨by simpa using Mem.wf_write _ off bs hwf, by simpa using Mem.below_write _ bs hb hbelow⟩

/-- R10, in the form `omega` uses. -/
theorem Caps.outMax_of_wellFormed {c : Caps} (h : c.wellFormed = true) : 48 ≤ c.outMax ∧ c.inMax + 32 ≤ c.outMax := by
  simp only [Caps.wellFormed, Bool.and_eq_true, decide_eq_true_eq] at h
  omega

/-- A micro-operation under the password goes on with it. -/
theorem State.withPassword_next {s t : State} {k : List Byte → Out} (h : s.withPassword k = .next t) :
    k s.password = .next t := (State.reading_next h).2

/-- A micro-operation that leaves `OUT` alone and goes on to `p`. -/
theorem State.Did.goto {s u : State} {i : Instr} {p : Byte} (hw : s.Works u) (ho : u.out = s.out) (hp : s.GoesTo u p i) :
    s.Did u i (u.goto p) where
  works := hw
  memOk h := by simpa only [State.MemOk, State.mem, hw.caps, ho] using h
  out _ := ho
  leaves := .inl ⟨p, hp, rfl⟩

theorem execKdfRun_did {s t : State} (h : execKdfRun s = .next t) : ∃ u, s.Did u .kdfRun t := by
  unfold execKdfRun at h
  cases State.withPassword_next h
  exact ⟨_, .goto (s.works_kdf _ _) rfl rfl⟩

theorem execPbkdf2F_did {s t : State} (h : execPbkdf2F s = .next t) : ∃ u, s.Did u .pbkdf2F t := by
  unfold execPbkdf2F at h
  cases State.withPassword_next h
  exact ⟨_, .goto (s.works_kdf _ s.dkm) rfl rfl⟩

theorem execHmac_did {s t : State} (h : execHmac s = .next t) : ∃ u, s.Did u .hmac t := by
  unfold execHmac at h
  cases State.withPassword_next h
  exact ⟨_, .goto (s.works_kdf _ s.dkm) rfl rfl⟩

theorem execKdfSplit_did {s t : State} (h : execKdfSplit s = .next t) : ∃ u, s.Did u .kdfSplit t := by
  unfold execKdfSplit at h
  split_ifs at h with hd he hc hbad
  · obtain ⟨hb, h⟩ := State.writing_next h
    cases h
    exact ⟨_, (State.Works.refl s).store _ _, State.MemOk.store hb, fun hi => absurd (by simp) hi,
      .inr (.inl ⟨48, fun hs => (Caps.outMax_of_wellFormed hs.caps).1, rfl⟩)⟩
  · cases h
    exact ⟨s, .goto rfl rfl ⟨rfl, .inl he⟩⟩
  · cases h
    exact ⟨s, rfl, id, fun _ => rfl, .inr (.inr (.inr (.inl ⟨rfl, hc, hbad, rfl⟩)))⟩
  · cases h
    exact ⟨s, .goto rfl rfl ⟨rfl, .inr ⟨hc, by simpa using hbad⟩⟩⟩

theorem execCbcInit_did {s t : State} (h : execCbcInit s = .next t) : ∃ u, s.Did u .cbcInit t := by
  unfold execCbcInit at h
  split_ifs at h with he hd <;> cases h
  · exact ⟨_, .goto rfl rfl ⟨rfl, .inl ⟨he, rfl⟩⟩⟩
  · exact ⟨_, .goto rfl rfl ⟨rfl, .inr ⟨hd, rfl⟩⟩⟩

theorem execCbcEncstep_did {s t : State} (h : execCbcEncstep s = .next t) : ∃ u, s.Did u .cbcEncstep t := by
  unfold execCbcEncstep at h
  obtain ⟨-, h⟩ := State.reading_next h
  obtain ⟨hb, h⟩ := State.writing_next h
  cases h
  refine ⟨_, (s.works_encStep _).store _ _, State.MemOk.store hb, fun hi => absurd (by simp) hi, .inl ⟨_, ?_, rfl⟩⟩
  split_ifs with hk
  · exact .inl ⟨rfl, by simpa using hk⟩
  · exact .inr rfl

theorem execCbcDecstep_did {s t : State} (h : execCbcDecstep s = .next t) : ∃ u, s.Did u .cbcDecstep t := by
  unfold execCbcDecstep at h
  obtain ⟨-, h⟩ := State.reading_next h
  obtain ⟨hb, h⟩ := State.writing_next h
  cases h
  refine ⟨_, (s.works_decStep _).store _ _, State.MemOk.store hb, fun hi => absurd (by simp) hi, .inl ⟨_, ?_, rfl⟩⟩
  split_ifs with hk
  · exact .inl ⟨rfl, by simpa using hk⟩
  · exact .inr rfl

theorem execPadInspect_did {s t : State} (h : execPadInspect s = .next t) : ∃ u, s.Did u .padInspect t := by
  unfold execPadInspect at h
  obtain ⟨-, h⟩ := State.reading_next h
  dsimp only at h
  split at h <;> cases h
  · exact ⟨{ s with padOk := false }, rfl, id, fun _ => rfl, .inr (.inr (.inr (.inr ⟨rfl, rfl, rfl⟩)))⟩
  · rename_i n _
    refine ⟨{ s with padOk := true, padLen := BitVec.ofNat 5 n }, rfl, id, fun _ => rfl,
      .inr (.inl ⟨_, fun hs => ?_, rfl⟩)⟩
    have := (Caps.outMax_of_wellFormed hs.caps).2
    have := hs.inp
    simp only [State.cipherLen]
    omega

theorem State.ctrFormat_did {cfg : Cfg} {s t : State} (h : s.ctrFormat cfg = .next t) : ∃ u, s.Did u .ctrFormat t := by
  obtain ⟨hb, h⟩ := State.writing_next h
  obtain ⟨hb', h⟩ := State.writing_next h
  cases h
  refine ⟨_, ((State.Works.refl s).store _ _).store _ _, fun hm => (hm.store hb).store hb', fun hi => absurd (by simp) hi,
    .inr (.inl ⟨_, fun hs => ?_, rfl⟩)⟩
  have := (Caps.outMax_of_wellFormed hs.caps).2
  have := hs.inp
  simp only [paddedBlocks]
  omega

theorem State.takeSalt_did {s t : State} (hl : 16 ≤ s.inLen) (h : s.takeSalt = .next t) : ∃ u, s.Did u .ctrParse t := by
  unfold State.takeSalt at h
  obtain ⟨-, h⟩ := State.reading_next h
  cases h
  exact ⟨_, .goto rfl rfl ⟨rfl, hl⟩⟩

/-- CTR.PARSE in this hardware, whose `CFG.STRICT_MARKER` is 0. -/
theorem execCtrParse_did {s t : State} (h : execCtrParse s = .next t) : ∃ u, s.Did u .ctrParse t := by
  by_cases hl : s.inLen < 16
  · simp only [execCtrParse, State.ctrParse, if_pos hl] at h
    cases h
    exact ⟨s, rfl, id, fun _ => rfl, .inr (.inr (.inl ⟨rfl, hl, rfl⟩))⟩
  · simp only [execCtrParse, State.ctrParse, if_neg hl] at h
    exact State.takeSalt_did (by omega) h

/-- Everything a micro-operation that goes on can do. -/
theorem exec_uop_did {i : Instr} {s t : State} (hi : i.format = .uop) (h : exec i s = .next t) : ∃ u, s.Did u i t := by
  cases i with
  | derive => cases hi
  | encode => cases hi
  | decode => cases hi
  | kdfRun => exact execKdfRun_did h
  | pbkdf2F => exact execPbkdf2F_did h
  | hmac => exact execHmac_did h
  | sha256Hash => cases h; exact ⟨_, .goto rfl rfl rfl⟩
  | sha256Compress => cases h; exact ⟨_, .goto rfl rfl rfl⟩
  | kdfSplit => exact execKdfSplit_did h
  | aesKeyexp => cases h; exact ⟨_, .goto rfl rfl rfl⟩
  | aesEncblk => cases h; exact ⟨_, .goto rfl rfl ⟨rfl, rfl⟩⟩
  | aesDecblk => cases h; exact ⟨_, .goto rfl rfl ⟨rfl, rfl⟩⟩
  | cbcInit => exact execCbcInit_did h
  | cbcEncstep => exact execCbcEncstep_did h
  | cbcDecstep => exact execCbcDecstep_did h
  | padApply => cases h; exact ⟨_, .goto rfl rfl ⟨rfl, rfl⟩⟩
  | padInspect => exact execPadInspect_did h
  | rngSalt => cases h; exact ⟨_, .goto rfl rfl rfl⟩
  | ctrFormat => exact State.ctrFormat_did h
  | ctrParse => exact execCtrParse_did h

end Sys2Proof.Machine
end

section
/-! SUPPORT. What the issue of a command does; what every step keeps: the capacities, and the position inside a
microprogram. -/

namespace Sys2Proof.Machine

/-! ### The issue of a command -/

/-- Where a command starts (R264), for DERIVE after its length test (R261). -/
def State.Starts (s : State) (first : Byte) : Instr → Prop
  | .derive => first = Instr.kdfRun.code ∧ s.inLen = 8
  | .encode => first = Instr.rngSalt.code
  | .decode => first = Instr.ctrParse.code
  | _ => False

/-- Everything a command that is issued can do: start, or (DERIVE) end at once with DerivationError. -/
theorem exec_cmd_next {i : Instr} {s t : State} (hi : i.format = .cmd) (h : exec i s = .next t) :
    s.busy = false ∧ ((i = .derive ∧ s.inLen ≠ 8 ∧ t = (s.issue i.code Instr.kdfRun.code).raise .derivationError)
      ∨ ∃ first, s.Starts first i ∧ (s.issue i.code first).Works t ∧ t.out = s.out) := by
  cases i with
  | derive =>
    obtain ⟨hb, h⟩ := State.whenIdle_next h
    refine ⟨hb, ?_⟩
    by_cases hl : s.inLen = 8
    · rw [if_neg (by simpa using hl)] at h
      obtain ⟨-, h⟩ := State.reading_next h
      cases h
      exact .inr ⟨_, ⟨rfl, hl⟩, rfl, rfl⟩
    · rw [if_pos (by simpa using hl)] at h
      cases h
      exact .inl ⟨rfl, hl, rfl⟩
  | encode => obtain ⟨hb, h⟩ := State.whenIdle_next h; cases h; exact ⟨hb, .inr ⟨_, rfl, rfl, rfl⟩⟩
  | decode => obtain ⟨hb, h⟩ := State.whenIdle_next h; cases h; exact ⟨hb, .inr ⟨_, rfl, rfl, rfl⟩⟩
  | _ => cases hi

/-! ### What fits in the capacities, whatever the position -/

/-- The part of the invariant that speaks of lengths and buffers, not of the position. -/
structure State.Fits (s : State) : Prop where
  sized : s.Sized
  outLen : s.outLen ≤ s.caps.outMax
  mem : ∀ sp, s.MemOk sp

section
variable {s u : State}

theorem State.Inv.fits (h : s.Inv) : s.Fits := ⟨h.sized, h.outLen, h.mem⟩

theorem State.Fits.works (h : s.Fits) (hw : s.Works u) (ho : s.MemOk .out → u.MemOk .out) : u.Fits where
  sized := ⟨hw.caps ▸ h.sized.caps, by rw [hw.pwLen, hw.caps]; exact h.sized.pw,
    by rw [hw.inLen, hw.caps]; exact h.sized.inp⟩
  outLen := by rw [hw.outLen, hw.caps]; exact h.outLen
  mem
    | .pw => by have := h.mem .pw; simpa only [State.MemOk, State.mem, hw.pw, hw.caps]
    | .inp => by have := h.mem .inp; simpa only [State.MemOk, State.mem, hw.inp, hw.caps]
    | .out => ho (h.mem .out)

theorem State.Fits.goto (h : s.Fits) (p : Byte) : (s.goto p).Fits :=
  ⟨⟨h.sized.caps, h.sized.pw, h.sized.inp⟩, h.outLen, h.mem⟩

theorem State.Fits.withHost (h : s.Fits) (l : List HostMove) : State.Fits { s with host := l } :=
  ⟨⟨h.sized.caps, h.sized.pw, h.sized.inp⟩, h.outLen, h.mem⟩

theorem State.Fits.give (h : s.Fits) (v : HostValue) : (s.give v).Fits :=
  ⟨⟨h.sized.caps, h.sized.pw, h.sized.inp⟩, h.outLen, h.mem⟩

theorem State.Fits.issue (h : s.Fits) (code first : Byte) : (s.issue code first).Fits :=
  ⟨⟨h.sized.caps, h.sized.pw, h.sized.inp⟩, Nat.zero_le _, h.mem⟩

theorem State.Fits.store (h : s.Fits) {sp : Space} {off : Nat} {bs : List Byte} (hb : off + bs.length ≤ s.caps.cap sp) :
    (s.store sp off bs).Fits where
  sized := ⟨by simpa using h.sized.caps, by simpa using h.sized.pw, by simpa using h.sized.inp⟩
  outLen := by simpa using h.outLen
  mem sp' := by
    by_cases he : sp' = sp
    · subst he; exact (h.mem sp').store hb
    · simpa [State.MemOk, State.mem_store_other s off bs he] using h.mem sp'

/-- The end of a command keeps of `OUT` what lies below `OUT_LEN`. -/
theorem State.Fits.lapse (h : s.Fits) : s.lapse.Fits where
  sized := ⟨h.sized.caps, h.sized.pw, h.sized.inp⟩
  outLen := h.outLen
  mem
    | .pw => h.mem .pw
    | .inp => h.mem .inp
    | .out => ⟨s.wf_outCells s.outLen, s.below_outCells h.outLen⟩

theorem State.Fits.complete (h : s.Fits) {n : Nat} (hn : n ≤ s.caps.outMax) :
    (State.complete { s with outLen := n }).Fits :=
  State.Fits.lapse ⟨⟨h.sized.caps, h.sized.pw, h.sized.inp⟩, hn, h.mem⟩

theorem State.Fits.raise (h : s.Fits) (e : Err) : (s.raise e).Fits :=
  State.Fits.lapse ⟨⟨h.sized.caps, h.sized.pw, h.sized.inp⟩, Nat.zero_le _, h.mem⟩

theorem State.Fits.resetEvent (h : s.Fits) : s.resetEvent.Fits :=
  ⟨⟨h.sized.caps, Nat.zero_le _, Nat.zero_le _⟩, Nat.zero_le _, fun sp => by simp [State.MemOk, Mem.wf, Mem.below]⟩

theorem State.Fits.did {i : Instr} {t : State} (h : s.Fits) (hd : s.Did u i t) : t.Fits := by
  have hu : u.Fits := h.works hd.works hd.memOk
  obtain ⟨p, -, rfl⟩ | ⟨n, hn, rfl⟩ | ⟨-, -, rfl⟩ | ⟨-, -, -, rfl⟩ | ⟨-, -, rfl⟩ := hd.leaves
  · exact hu.goto p
  · exact hu.complete (by rw [hd.works.caps]; exact hn h.sized)
  all_goals exact hu.raise _

end

/-- Every instruction, from any position, keeps the lengths and the buffers within the capacities. -/
theorem exec_fits {i : Instr} {s t : State} (hs : s.Fits) (h : exec i s = .next t) : t.Fits := by
  cases hi : i.format with
  | cmd =>
    obtain ⟨-, ⟨-, -, rfl⟩ | ⟨first, -, hw, ho⟩⟩ := exec_cmd_next hi h
    · exact (hs.issue _ _).raise _
    · refine (hs.issue _ _).works hw fun hm => ?_
      simpa only [State.MemOk, State.mem, hw.caps, ho, State.out_issue] using hm
  | uop =>
    obtain ⟨u, hd⟩ := exec_uop_did hi h
    exact hs.did hd

/-- An access of HOST's that is no command keeps the lengths and the buffers within the capacities. -/
theorem State.writeRegIdle_fits {s t : State} {no v : Nat} (hs : s.Fits) (h : s.writeRegIdle no v = .next t) :
    t.Fits := by
  obtain ⟨hv, rfl⟩ | ⟨hv, rfl⟩ := State.writeRegIdle_next h
  · exact ⟨⟨hs.sized.caps, hv, hs.sized.inp⟩, hs.outLen, hs.mem⟩
  · exact ⟨⟨hs.sized.caps, hs.sized.pw, hv⟩, hs.outLen, hs.mem⟩

theorem State.hostReadReg_fits {s t : State} {no : Nat} (hs : s.Fits) (h : s.hostReadReg no = .next t) : t.Fits := by
  obtain ⟨v, rfl⟩ := State.hostReadReg_next h
  exact hs.give v

theorem State.hostReadBuf_fits {s t : State} {sp : Space} {off n : Nat} (hs : s.Fits)
    (h : s.hostReadBuf sp off n = .next t) : t.Fits := by
  obtain ⟨-, v, rfl⟩ := State.hostReadBuf_next h
  exact hs.give v

theorem State.hostWriteBuf_fits {s t : State} {sp : Space} {off : Nat} {bs : List Byte} (hs : s.Fits)
    (h : s.hostWriteBuf sp off bs = .next t) : t.Fits := by
  obtain ⟨-, -, hb, rfl⟩ := State.hostWriteBuf_next h
  exact hs.store hb

/-- A turn that runs an instruction runs it in a state whose lengths and buffers are those before. -/
theorem State.turn_run_fits {s u : State} {i : Instr} (hs : s.Fits) (h : s.turn = .run i u) : u.Fits := by
  unfold State.turn at h
  split at h
  · obtain ⟨rfl, -⟩ := State.seqTurn_run h; exact hs
  · obtain ⟨rfl, -⟩ := State.seqTurn_run h; exact hs.withHost _
  · split at h
    · cases h
    · obtain ⟨rfl, -⟩ := State.seqTurn_run h; exact hs
  · cases h
  · obtain ⟨rfl, -⟩ := State.cmdTurn_run h; exact hs.withHost _
  · split at h <;> cases h
  all_goals cases h

/-- A turn that runs no instruction keeps the lengths and the buffers within the capacities. -/
theorem State.turn_took_fits {s t : State} (hs : s.Fits) (h : s.turn = .took (.next t)) : t.Fits := by
  unfold State.turn at h
  split at h
  · obtain ⟨-, rfl⟩ := State.seqTurn_took h; exact hs
  · obtain ⟨-, rfl⟩ := State.seqTurn_took h; exact hs.withHost _
  · split at h
    · exact State.hostReadReg_fits (hs.withHost _) (Turn.took.inj h)
    · obtain ⟨-, rfl⟩ := State.seqTurn_took h; exact hs
  · cases h; exact (hs.withHost _).resetEvent
  · exact (State.cmdTurn_took h).elim
  · split at h
    · cases h
    · exact State.writeRegIdle_fits (hs.withHost _) (Turn.took.inj h)
  · exact State.hostReadReg_fits (hs.withHost _) (Turn.took.inj h)
  · exact State.hostWriteBuf_fits (hs.withHost _) (Turn.took.inj h)
  · exact State.hostReadBuf_fits (hs.withHost _) (Turn.took.inj h)
  · exact State.hostReadBuf_fits (hs.withHost _) (Turn.took.inj h)

theorem step_fits {s t : State} (hs : s.Fits) (h : step s = .next t) : t.Fits := by
  unfold step at h
  split at h
  · exact exec_fits (State.turn_run_fits hs ‹_›) h
  · subst h; exact State.turn_took_fits hs ‹_›

/-! ### The position inside a microprogram -/

/-- The steps from position to position that are the same in every command (R264). -/
def uopEdges : List (Byte × Byte) :=
  [(0x14, 0x13), (0x13, 0x12), (0x12, 0x11), (0x11, 0x10), (0x10, 0x15), (0x50, 0x10), (0x52, 0x10), (0x20, 0x30),
   (0x40, 0x31), (0x21, 0x31), (0x31, 0x31), (0x31, 0x51), (0x22, 0x32), (0x32, 0x32), (0x32, 0x41)]

/-- Only the three commands have a microprogram. -/
theorem mem_microprogram_cmd {cmd p : Byte} (h : p ∈ microprogram cmd) : cmd ∈ [0x01, 0x02, 0x03] := by
  unfold microprogram at h
  split_ifs at h with h1 h2 h3 <;> simp_all

theorem microprogram_closed : ∀ cmd ∈ [0x01, 0x02, 0x03], ∀ e ∈ uopEdges,
    e.1 ∈ microprogram cmd → e.2 ∈ microprogram cmd := by
  intro cmd hc
  fin_cases hc <;> simp [uopEdges, microprogram, kdfCodes]

theorem mem_microprogram_edge {cmd p q : Byte} (he : (p, q) ∈ uopEdges) (h : p ∈ microprogram cmd) :
    q ∈ microprogram cmd :=
  microprogram_closed cmd (mem_microprogram_cmd h) _ he h

/-- The command goes on inside its microprogram. -/
theorem State.GoesTo.mem_microprogram {s u : State} {i : Instr} {p : Byte} (hm : i.code ∈ microprogram s.curCmd)
    (h : s.GoesTo u p i) : p ∈ microprogram s.curCmd := by
  cases i with
  | derive | encode | decode | ctrFormat | padInspect => exact h.elim
  | sha256Compress | sha256Hash | hmac | pbkdf2F | rngSalt | kdfRun | aesKeyexp =>
    subst h; exact mem_microprogram_edge (by decide) hm
  | ctrParse | padApply | aesEncblk | aesDecblk => obtain ⟨rfl, -⟩ := h; exact mem_microprogram_edge (by decide) hm
  | kdfSplit => obtain ⟨rfl, he | ⟨hd, -⟩⟩ := h <;> simp only [*] <;> decide
  | cbcInit => obtain ⟨-, ⟨he, rfl⟩ | ⟨hd, rfl⟩⟩ := h <;> simp only [*] <;> decide
  | cbcEncstep | cbcDecstep => obtain ⟨rfl, -⟩ | rfl := h <;> exact mem_microprogram_edge (by decide) hm

/-- The positions of DECODE behind its length test are entered from KDF.SPLIT, which makes the test, or from one
another. -/
theorem State.GoesTo.behind_test {s u : State} {i : Instr} {p : Byte} (h : s.GoesTo u p i)
    (hp : p ∈ [0x20, 0x30, 0x32, 0x22, 0x41]) :
    s.curCmd = 0x02 ∨ s.badCipherLen = false ∨ i.code ∈ [0x20, 0x30, 0x32, 0x22] := by
  cases i with
  | kdfSplit => obtain ⟨-, he | ⟨-, hb⟩⟩ := h <;> simp_all [Instr.code]
  | cbcEncstep => obtain ⟨rfl, -⟩ | rfl := h <;> exact absurd hp (by decide)
  | aesKeyexp | cbcInit | cbcDecstep | aesDecblk => exact .inr (.inr (by decide))
  | _ => simp_all [State.GoesTo, Instr.code]

/-- The block index stays below the number of blocks of ENCODE. -/
theorem State.GoesTo.encIndex {s u : State} {i : Instr} {p : Byte} (h : s.GoesTo u p i) (hp : p ∈ [0x40, 0x31, 0x21])
    (hs : i.code ∈ [0x40, 0x31, 0x21] → s.blkN < paddedBlocks s.inLen) : u.blkN < paddedBlocks s.inLen := by
  cases i with
  | cbcInit => rw [h.1]; exact Nat.succ_pos _
  | padApply | aesEncblk => rw [h.2]; exact hs (by decide)
  | cbcEncstep =>
    obtain ⟨-, hlt⟩ | rfl := h
    · exact hlt
    · exact absurd hp (by decide)
  | cbcDecstep => obtain ⟨rfl, -⟩ | rfl := h <;> exact absurd hp (by decide)
  | _ => simp_all [State.GoesTo, Instr.code]

/-- The block index stays below the number of blocks of DECODE. -/
theorem State.GoesTo.decIndex {s u : State} {i : Instr} {p : Byte} (h : s.GoesTo u p i) (hp : p ∈ [0x32, 0x22])
    (hb : i = .cbcInit → s.badCipherLen = false) (hs : i.code ∈ [0x32, 0x22] → s.blkN < s.cipherLen / 16) :
    u.blkN < s.cipherLen / 16 := by
  cases i with
  | cbcInit =>
    have := hb rfl
    simp only [State.badCipherLen, Bool.or_eq_false_iff, beq_eq_false_iff_ne, bne_eq_false_iff_eq] at this
    rw [h.1]
    omega
  | aesDecblk => rw [h.2]; exact hs (by decide)
  | cbcDecstep =>
    obtain ⟨-, hlt⟩ | rfl := h
    · exact hlt
    · exact absurd hp (by decide)
  | cbcEncstep => obtain ⟨rfl, -⟩ | rfl := h <;> exact absurd hp (by decide)
  | _ => simp_all [State.GoesTo, Instr.code]

theorem Instr.code_eq_ctrParse {i : Instr} (h : i.code = 0x52) : i = .ctrParse := by
  revert h; cases i <;> decide

/-- What a command relies on is there for the micro-operation that follows. -/
theorem State.Underway.goto {s u : State} {i : Instr} {p : Byte} (hs : s.Underway) (hst : s.status = 0x01)
    (hp : s.phase = i.code) (hw : s.Works u) (h : s.GoesTo u p i) : (u.goto p).Underway where
  derive _ hc := by
    rw [State.inLen_goto, hw.inLen]
    exact hs.derive hst (by rwa [State.curCmd_goto, hw.curCmd] at hc)
  parsed _ hc _ := by
    rw [State.curCmd_goto, hw.curCmd] at hc
    rw [State.inLen_goto, hw.inLen]
    by_cases hi : i = .ctrParse
    · subst hi; exact h.2
    · exact hs.parsed hst hc fun h52 => hi (Instr.code_eq_ctrParse (hp ▸ h52))
  blocks _ hc hm := by
    rw [State.curCmd_goto, hw.curCmd] at hc
    have hb : s.badCipherLen = false := by
      obtain h2 | hb | hi := h.behind_test hm
      · exact absurd (hc.symm.trans h2) (by decide)
      · exact hb
      · exact hs.blocks hst hc (by rw [hp]; exact List.mem_append_left [0x41] hi)
    simpa only [State.badCipherLen, State.cipherLen, State.inLen_goto, hw.inLen] using hb
  encIndex _ hc hm := by
    rw [State.curCmd_goto, hw.curCmd] at hc
    rw [State.inLen_goto, hw.inLen]
    exact h.encIndex hm fun hi => hs.encIndex hst hc (hp ▸ hi)
  decIndex _ hc hm := by
    rw [State.curCmd_goto, hw.curCmd] at hc
    have := h.decIndex hm (fun hi => hs.blocks hst hc (by rw [hp, hi]; decide)) fun hi => hs.decIndex hst hc (hp ▸ hi)
    simpa only [State.cipherLen, State.inLen_goto, State.blkN_goto, hw.inLen] using this

/-- Nothing is under way in a state whose `STATUS` is not that of a running command. -/
theorem State.Underway.of_status_ne {s : State} (h : s.status ≠ 0x01) : s.Underway :=
  ⟨fun h1 => absurd h1 h, fun h1 => absurd h1 h, fun h1 => absurd h1 h, fun h1 => absurd h1 h, fun h1 => absurd h1 h⟩

/-- At the start of a microprogram a command relies on the length of DERIVE's salt operand only. -/
theorem State.Underway.of_start {s : State} (hp : s.phase ∈ [0x10, 0x50, 0x52]) (hd : s.curCmd = 0x01 → s.inLen = 8)
    (h3 : s.curCmd = 0x03 → s.phase = 0x52) : s.Underway where
  derive _ := hd
  parsed _ hc hne := absurd (h3 hc) hne
  blocks _ _ hm := absurd hm ((by decide : ∀ p ∈ [0x10#8, 0x50, 0x52], p ∉ [0x20#8, 0x30, 0x32, 0x22, 0x41]) _ hp)
  encIndex _ _ hm := absurd hm ((by decide : ∀ p ∈ [0x10#8, 0x50, 0x52], p ∉ [0x40#8, 0x31, 0x21]) _ hp)
  decIndex _ _ hm := absurd hm ((by decide : ∀ p ∈ [0x10#8, 0x50, 0x52], p ∉ [0x32#8, 0x22]) _ hp)

theorem State.Underway.withHost {s : State} (h : s.Underway) (l : List HostMove) : State.Underway { s with host := l } :=
  ⟨h.derive, h.parsed, h.blocks, h.encIndex, h.decIndex⟩

/-- SEQ has a step only inside a microprogram. -/
theorem State.Placed.running {s : State} (h : s.Placed) (hr : s.running = true) :
    s.phase ∈ microprogram s.curCmd ∧ s.status = 0x01 ∧ s.outLen = 0 := by
  obtain ⟨hp, -⟩ | ⟨hp, -⟩ | ⟨hp, -⟩ | h := h
  · simp [State.running, hp] at hr
  · simp [State.running, hp] at hr
  · simp [State.running, hp] at hr
  · exact h

/-- The reserved bits of STATUS stay clear. -/
theorem State.Placed.status_clear {s : State} (h : s.Placed) : s.status &&& 0xF0 = 0 := by
  obtain ⟨-, h, -⟩ | ⟨-, h, -⟩ | ⟨-, -, ⟨-, h⟩ | ⟨-, h⟩⟩ | ⟨-, h, -⟩ := h
  · rw [h]; rfl
  · rw [h]; rfl
  · rw [h]; rfl
  · rcases List.mem_pair.mp h with h | h <;> rw [h] <;> rfl
  · rw [h]; rfl

/-- CTR.PARSE and PAD.INSPECT stand in the microprogram of DECODE only. -/
theorem microprogram_decode : ∀ cmd ∈ [0x01, 0x02, 0x03], ∀ p ∈ [0x52, 0x41], p ∈ microprogram cmd → cmd = 0x03 := by
  decide

/-- An error entry from a running command that can raise it (R301 to R303). -/
theorem State.raise_placed {u : State} {e : Err} (hst : u.status = 0x01)
    (hc : u.curCmd = if e = .derivationError then 0x01 else 0x03) : (u.raise e).Placed ∧ (u.raise e).Underway := by
  have hend : (u.raise e).status = Status.put false true e.code 0x01 := by rw [State.status_raise, hst]
  cases e with
  | derivationError => exact ⟨.inr (.inr (.inl ⟨rfl, rfl, .inl ⟨hc, hend⟩⟩)), .of_status_ne (by rw [hend]; decide)⟩
  | formatError | paddingError =>
    exact ⟨.inr (.inr (.inl ⟨rfl, rfl, .inr ⟨hc, by rw [hend]; decide⟩⟩)), .of_status_ne (by rw [hend]; decide)⟩

/-- A micro-operation of the command at its position keeps the position in place. -/
theorem State.Did.placed {s u t : State} {i : Instr} (hp : s.phase = i.code) (hm : s.phase ∈ microprogram s.curCmd)
    (hst : s.status = 0x01) (hol : s.outLen = 0) (hs : s.Underway) (hd : s.Did u i t) : t.Placed ∧ t.Underway := by
  have hw := hd.works
  have hust : u.status = 0x01 := hw.status.trans hst
  have hcmd := mem_microprogram_cmd hm
  have parsing : s.phase ∈ [0x52, 0x41] → u.curCmd = 0x03 := fun hi =>
    hw.curCmd.trans (microprogram_decode _ hcmd _ hi hm)
  obtain ⟨p, hgo, rfl⟩ | ⟨n, -, rfl⟩ | ⟨rfl, -, rfl⟩ | ⟨rfl, hc, -, rfl⟩ | ⟨rfl, -, rfl⟩ := hd.leaves
  · refine ⟨.inr (.inr (.inr ⟨?_, hust, hw.outLen.trans hol⟩)), hs.goto hst hp hw hgo⟩
    rw [State.phase_goto, State.curCmd_goto, hw.curCmd]
    exact hgo.mem_microprogram (hp ▸ hm)
  · have hend : (State.complete { u with outLen := n }).status = 0x02 := by
      rw [State.status_complete, hust]; decide
    exact ⟨.inr (.inl ⟨rfl, hend, by simpa [hw.curCmd] using hcmd⟩), .of_status_ne (by rw [hend]; decide)⟩
  · exact State.raise_placed hust (parsing (by rw [hp]; decide))
  · exact State.raise_placed hust (hw.curCmd.trans hc)
  · exact State.raise_placed hust (parsing (by rw [hp]; decide))

theorem State.SeqMoves.placed {s t : State} (hp : s.Placed) (hu : s.Underway) (h : s.SeqMoves t) :
    t.Placed ∧ t.Underway := by
  obtain ⟨-, rfl⟩ | ⟨hr, i, hi, hc, he⟩ := h
  · exact ⟨hp, hu⟩
  · obtain ⟨hm, hst, hol⟩ := hp.running hr
    obtain ⟨u, hd⟩ := exec_uop_did hi he
    exact hd.placed hc hm hst hol hu

/-- A command issued puts the machine at the start of its microprogram, or (DERIVE) in DONE_ERR. -/
theorem exec_cmd_placed {i : Instr} {s t : State} (hi : i.format = .cmd) (hs : s.Placed) (h : exec i s = .next t) :
    t.Placed ∧ t.Underway := by
  have hissue : Status.put true false 0 s.status = 0x01 := by
    rw [Status.put_of_clear _ _ _ hs.status_clear]; decide
  obtain ⟨-, ⟨rfl, -, rfl⟩ | ⟨first, hf, hw, -⟩⟩ := exec_cmd_next hi h
  · exact State.raise_placed hissue rfl
  · have hp : t.phase = first := hw.phase
    have hc : t.curCmd = i.code := hw.curCmd
    have hl : t.inLen = s.inLen := hw.inLen
    have hst : t.status = 0x01 := hw.status.trans hissue
    have placed (hm : first ∈ microprogram i.code) : t.Placed := .inr (.inr (.inr ⟨by rwa [hp, hc], hst, hw.outLen⟩))
    cases i with
    | derive =>
      obtain ⟨rfl, hlen⟩ := hf
      exact ⟨placed (by decide), .of_start (by rw [hp]; decide) (fun _ => hl.trans hlen)
        fun h3 => absurd (hc.symm.trans h3) (by decide)⟩
    | encode =>
      obtain rfl : first = _ := hf
      exact ⟨placed (by decide), .of_start (by rw [hp]; decide) (fun h1 => absurd (hc.symm.trans h1) (by decide))
        fun h3 => absurd (hc.symm.trans h3) (by decide)⟩
    | decode =>
      obtain rfl : first = _ := hf
      exact ⟨placed (by decide), .of_start (by rw [hp]; decide) (fun h1 => absurd (hc.symm.trans h1) (by decide))
        fun _ => hp⟩
    | _ => cases hi

/-- Every step keeps the position in place. -/
theorem step_placed {s t : State} (hs : s.Inv) (h : step s = .next t) : t.Placed ∧ t.Underway := by
  obtain ⟨-, hq⟩ | ⟨rest, -, hq⟩ | ⟨v, rest, i, -, -, -, hi, -, he⟩ | ⟨rest, -, rfl⟩
    | ⟨-, ⟨pwLen, inLen, pw, inp, seen, ht⟩, hb⟩ := step_next h
  · exact hq.placed hs.placed hs.underway
  · exact State.SeqMoves.placed (s := { s with host := rest }) hs.placed (hs.underway.withHost rest) hq
  · exact exec_cmd_placed (s := { s with host := rest }) hi hs.placed he
  · exact ⟨.inl ⟨rfl, rfl, rfl, rfl⟩, .of_status_ne (by rw [State.status_resetEvent]; decide)⟩
  · obtain hidle | ⟨v, rfl⟩ := hb
    · subst ht
      refine ⟨hs.placed, .of_status_ne fun hst => ?_⟩
      rw [State.busy, hst] at hidle
      exact absurd hidle (by decide)
    · obtain ⟨hderive, hparsed, hblocks, henc, hdec⟩ := hs.underway
      exact ⟨hs.placed, ⟨hderive, hparsed, hblocks, henc, hdec⟩⟩

/-- Settles O10: the lengths and buffers stay within the capacities from any position (`step_fits`), and the position
stays in its microprogram because every micro-operation goes on along R264 (`exec_uop_did`). -/
theorem stepKeepsInvariant : Obligations.StepKeepsInvariant := by
  intro s t hs h
  obtain ⟨hsized, hout, hmem⟩ := step_fits hs.fits h
  obtain ⟨hplaced, hunder⟩ := step_placed hs h
  exact ⟨hsized, hout, hplaced, hunder, hmem⟩

end Sys2Proof.Machine
end

section
/-! SUPPORT. The statements about single steps: what a micro-operation leaves of STATUS and of the buffers, reset, and
HOST's accesses to registers and buffers. -/

namespace Sys2Proof.Machine

/-! ### Micro-operations -/

/-- A successor is a micro-operation, no end of the command. -/
theorem State.GoesTo.not_end {s u : State} {i : Instr} {p : Byte} (h : s.GoesTo u p i) :
    p ≠ phaseDoneOk ∧ p ≠ phaseDoneErr := by
  cases i with
  | derive | encode | decode | ctrFormat | padInspect => exact h.elim
  | sha256Compress | sha256Hash | hmac | pbkdf2F | rngSalt | kdfRun | aesKeyexp => subst h; decide
  | ctrParse | padApply | aesEncblk | aesDecblk | kdfSplit => obtain ⟨rfl, -⟩ := h; decide
  | cbcInit => obtain ⟨-, ⟨-, rfl⟩ | ⟨-, rfl⟩⟩ := h <;> decide
  | cbcEncstep | cbcDecstep => obtain ⟨rfl, -⟩ | rfl := h <;> decide

/-- A micro-operation goes on with `STATUS` as it was, or ends the command with `BUSY` 0 and `DONE` 1. -/
theorem State.Did.status {s u t : State} {i : Instr} (hd : s.Did u i t) :
    t.curCmd = s.curCmd ∧ ((t.status = s.status ∧ t.phase ≠ phaseDoneOk ∧ t.phase ≠ phaseDoneErr)
      ∨ (t.busy = false ∧ t.done = true ∧ (t.phase = phaseDoneOk ∨ t.phase = phaseDoneErr))) := by
  obtain ⟨p, hgo, rfl⟩ | ⟨n, -, rfl⟩ | ⟨-, -, rfl⟩ | ⟨-, -, -, rfl⟩ | ⟨-, -, rfl⟩ := hd.leaves
  · exact ⟨hd.works.curCmd, .inl ⟨hd.works.status, hgo.not_end⟩⟩
  · exact ⟨hd.works.curCmd, .inr ⟨State.busy_complete _, State.done_complete _, .inl rfl⟩⟩
  all_goals exact ⟨hd.works.curCmd, .inr ⟨State.busy_raise _ _, State.done_raise _ _, .inr rfl⟩⟩

/-- Settles O15, from what a micro-operation can do (`exec_uop_did`). -/
theorem microOperationStatus : Obligations.MicroOperationStatus := by
  intro i s t hi h
  obtain ⟨u, hd⟩ := exec_uop_did hi h
  obtain ⟨hc, ⟨hst, hok, herr⟩ | ⟨hb, hdone, hend⟩⟩ := hd.status
  · exact ⟨hc, by rw [if_neg (by simp [hok, herr])]; exact hst⟩
  · exact ⟨hc, by rw [if_pos hend]; exact ⟨hb, hdone⟩⟩

/-- The end of a command keeps every byte that is still specified: `PW` and `IN` after an error, which leaves `OUT_LEN`
0. -/
theorem State.KeepsBytesBut.raise {s u : State} (h : ∀ sp a, u.readByte sp a = s.readByte sp a) (e : Err) (off n : Nat) :
    s.KeepsBytesBut (u.raise e) off n := by
  intro sp a _ hsp
  have hout : sp ≠ .out := fun ho => (hsp ho).elim (fun hr => absurd hr (by simp [State.running])) (Nat.not_lt_zero a)
  rw [State.readByte_raise u e hout, h]

theorem State.KeepsBytesBut.complete {s u : State} (h : ∀ sp a, u.readByte sp a = s.readByte sp a) (off n : Nat) :
    s.KeepsBytesBut u.complete off n := by
  intro sp a _ hsp
  have hout : sp = .out → a < u.outLen := fun ho => (hsp ho).resolve_left (by simp [State.running])
  rw [State.readByte_complete u hout, h]

/-- Settles O17: the other 13 micro-operations leave `OUT` to their successor or to the end of the command, and so do the
three commands. -/
theorem onlyFourWriteOut : Obligations.OnlyFourWriteOut := by
  intro i s t hnot h
  cases hi : i.format with
  | cmd =>
    obtain ⟨-, ⟨-, -, rfl⟩ | ⟨first, -, hw, ho⟩⟩ := exec_cmd_next hi h
    · exact State.KeepsBytesBut.raise (fun sp a => by cases sp <;> rfl) _ _ _
    · intro sp a _ _
      rw [hw.readByte ho]
      cases sp <;> rfl
  | uop =>
    obtain ⟨u, hd⟩ := exec_uop_did hi h
    have hu : ∀ sp a, u.readByte sp a = s.readByte sp a := hd.works.readByte (hd.out hnot)
    obtain ⟨p, -, rfl⟩ | ⟨n, -, rfl⟩ | ⟨-, -, rfl⟩ | ⟨-, -, -, rfl⟩ | ⟨-, -, rfl⟩ := hd.leaves
    · intro sp a _ _
      rw [← hu]
      cases sp <;> rfl
    · exact State.KeepsBytesBut.complete (fun sp a => (by cases sp <;> rfl : _ = u.readByte sp a).trans (hu sp a)) _ _
    all_goals exact State.KeepsBytesBut.raise hu _ _ _

/-! ### Turns -/

/-- SEQ's turn while it runs: the micro-operation at `PHASE`. -/
theorem State.seqTurn_running {s : State} {i : Instr} (hr : s.running = true)
    (hd : Sys2Proof.decode .uop [s.phase] = .ok (i, [])) : s.seqTurn = .run i s := by
  simp [State.seqTurn, hr, hd]

/-- Settles O3: with no move, while HOST polls, or while it stands still the turn is SEQ's. -/
theorem stepRunsMicroOperation : Obligations.StepRunsMicroOperation := by
  intro s i hr hd
  refine ⟨fun hh => ?_, fun rest hh => ?_, fun rest hh hdone => ?_⟩
  · simp [step, State.turn, hh, State.seqTurn_running hr hd]
  · simp [step, State.turn, hh, State.seqTurn_running (s := { s with host := rest }) hr hd]
  · simp [step, State.turn, hh, hdone, State.seqTurn_running hr hd]

/-- With HOST making no move, a machine that SEQ does not run stays as it is. -/
theorem step_idle {s : State} (hh : s.host = []) (hr : s.running = false) : step s = .next s := by
  simp [step, State.turn, hh, State.seqTurn, hr]

/-- Settles O6: IDLE, DONE_OK and DONE_ERR are the positions where SEQ does not run. -/
theorem idleStays : Obligations.IdleStays := by
  intro s hh hp
  refine step_idle hh ?_
  simp only [List.mem_cons, List.not_mem_nil, or_false] at hp
  rcases hp with h | h | h <;> simp [State.running, phaseIdle, phaseDoneOk, phaseDoneErr, h]

/-! ### Reset -/

/-- Settles O7: the fields of the reset state and the constants of CFG, by evaluation. -/
theorem resetState : Obligations.ResetState :=
  ⟨⟨rfl, rfl, rfl, rfl⟩, ⟨rfl, rfl, rfl⟩, rfl⟩

/-- Settles O9: after reset the machine is idle, with nothing under way and nothing written. -/
theorem resetMeetsInvariant : Obligations.ResetMeetsInvariant where
  sized := ⟨by decide, Nat.zero_le _, Nat.zero_le _⟩
  outLen := Nat.zero_le _
  placed := .inl ⟨rfl, rfl, rfl, rfl⟩
  underway := .of_status_ne (by decide)
  mem sp := ⟨State.reset_mem_wf sp, by cases sp <;> rfl⟩

/-! ### HOST's accesses while `BUSY = 0` -/

/-- HOST's write to a register other than `CMD`. -/
theorem step_writeReg {s : State} {no v : Nat} {rest : List HostMove} (hb : s.busy = false)
    (hh : s.host = .writeReg no v :: rest) (hno : no ≠ 0) : step s = { s with host := rest }.writeRegIdle no v := by
  simp [step, State.turn, hh, hb]

/-- HOST's read of a register. -/
theorem step_readReg {s : State} {no : Nat} {rest : List HostMove} (hh : s.host = .readReg no :: rest) :
    step s = { s with host := rest }.hostReadReg no := by
  simp [step, State.turn, hh]

theorem State.hostReadReg_some {s : State} {no : Nat} {v : HostValue} (hb : s.busy = false)
    (hv : s.regValue Config.cfg no = some v) : s.hostReadReg no = .next (s.give v) := by
  simp [State.hostReadReg, hb, hv]

theorem State.hostReadReg_none {s : State} {no : Nat} (hb : s.busy = false) (hv : s.regValue Config.cfg no = none) :
    s.hostReadReg no = .refused .unassignedRegister := by
  simp [State.hostReadReg, hb, hv]

/-- HOST's write to a buffer. -/
theorem step_writeBuf {s : State} {sp : Space} {off : Nat} {bs : List Byte} {rest : List HostMove} (hb : s.busy = false)
    (hh : s.host = .writeBuf sp off bs :: rest) :
    step s = if sp = .out then .refused .accessForbidden
      else if off + bs.length ≤ s.caps.cap sp then .next (State.store { s with host := rest } sp off bs)
      else .refused .aboveCapacity := by
  have hb' : State.busy { s with host := rest } = false := hb
  simp [step, State.turn, hh, State.hostWriteBuf, hb']

/-- Settles O21: the cases of HOST's write to a register, by its number. -/
theorem lengthWrites : Obligations.LengthWrites := by
  intro s v rest hb
  refine ⟨fun hh => ?_, fun hh => ?_, fun no hno hh => ?_, fun no hno hh => ?_⟩
  · exact step_writeReg hb hh (by decide)
  · exact step_writeReg hb hh (by decide)
  · rw [step_writeReg hb hh (by rintro rfl; simp at hno)]
    simp only [List.mem_cons, List.not_mem_nil, or_false] at hno
    rcases hno with rfl | rfl | rfl | rfl | rfl | rfl | rfl | rfl | rfl | rfl <;> rfl
  · rw [step_writeReg hb hh (by rintro rfl; simp at hno)]
    simp only [List.mem_cons, List.not_mem_nil, or_false] at hno
    obtain (rfl | rfl | rfl) | hno := hno
    · rfl
    · rfl
    · rfl
    · obtain ⟨k, rfl⟩ := Nat.exists_eq_add_of_le' hno
      rfl

/-- Settles O60: the cases of HOST's read of a register, by its number. -/
theorem registerReads : Obligations.RegisterReads := by
  intro s no rest hb hh
  rw [step_readReg hh]
  refine ⟨fun v hv => State.hostReadReg_some hb ?_, fun hno => ?_, fun hno => State.hostReadReg_none hb ?_⟩
  · simp only [List.mem_cons, Prod.mk.injEq, List.not_mem_nil, or_false] at hv
    rcases hv with ⟨rfl, rfl⟩ | ⟨rfl, rfl⟩ | ⟨rfl, rfl⟩ | ⟨rfl, rfl⟩ | ⟨rfl, rfl⟩ | ⟨rfl, rfl⟩ | ⟨rfl, rfl⟩ | ⟨rfl, rfl⟩
      | ⟨rfl, rfl⟩ | ⟨rfl, rfl⟩ | ⟨rfl, rfl⟩ <;> rfl
  · subst hno
    exact ⟨_, (Config.cmdRead s.seen.length).isLt, State.hostReadReg_some hb rfl⟩
  · simp only [List.mem_cons, List.not_mem_nil, or_false] at hno
    obtain (rfl | rfl | rfl) | hno := hno
    · rfl
    · rfl
    · rfl
    · obtain ⟨k, rfl⟩ := Nat.exists_eq_add_of_le' hno
      rfl

/-- Settles O22: a store puts its bytes and leaves every other one (`readByte_store_inside`, `readByte_store_outside`). -/
theorem bufferWrites : Obligations.BufferWrites := by
  intro s sp off bs rest hb hh
  rw [step_writeBuf hb hh]
  split_ifs with hout hfit
  · rfl
  · refine ⟨_, rfl, ?_, fun k hk => State.readByte_store_inside _ sp off bs hk, fun sp' a ha => ?_⟩
    · cases sp with
      | out => exact absurd rfl hout
      | pw | inp => rfl
    · rw [State.readByte_store_outside _ bs (by by_contra hc; push Not at hc; exact ha (by simpa using hc))]
      cases sp' <;> rfl
  · rfl

end Sys2Proof.Machine
end

section
/-! SUPPORT. The units compute the pure functions of the spec: the hash unit and the key-derivation engine (40_kdf.md R135
to R140), the cipher unit (41_aes.md R180, R181), whatever their registers held before. -/

namespace Sys2Proof.Machine

/-! ### The hash unit -/

theorem ShaRegs.foldl_round (r : ShaRegs) (n : Nat) :
    (List.range (n + 1)).foldl ShaRegs.round r = { r with v := shaVars r.w r.v (n + 1), t := BitVec.ofNat 6 n } := by
  induction n with
  | zero => rfl
  | succ n ih => rw [List.range_succ, List.foldl_append, ih]; rfl

/-- SHA256.COMPRESS reads the chaining value and the block only. -/
theorem ShaRegs.compress_eq (r : ShaRegs) : r.compress =
    { r with h := shaCompress r.h r.blk, v := shaVars (schedule r.blk) r.h 64, w := schedule r.blk, t := 63 } := by
  simp only [ShaRegs.compress, ShaRegs.foldl_round _ 63]
  rfl

theorem ShaRegs.foldl_compress (r : ShaRegs) (p : List Byte) (hr : r.h = iv256) (n : Nat) :
    ((List.range n).foldl (fun r b => { r with blk := msgBlock p b }.compress) r).h = shaChain p n := by
  induction n with
  | zero => exact hr
  | succ n ih =>
    rw [List.range_succ, List.foldl_append, List.foldl_cons, List.foldl_nil, ShaRegs.compress_eq]
    simp only [ih, shaChain]

/-- SHA256.HASH leaves the digest of the message in `SHA_H`. -/
theorem ShaRegs.digest_hash (r : ShaRegs) : r.hash.h.digest = sha256 r.msg := by
  rw [ShaRegs.hash, ShaRegs.foldl_compress _ _ rfl]
  rfl

theorem ShaRegs.digest_hashOf (r : ShaRegs) (m : List Byte) : (r.hashOf m).h.digest = sha256 m :=
  ShaRegs.digest_hash _

/-! ### The key-derivation engine -/

/-- HMAC leaves the digest of its text under the key in `SHA_H`. -/
theorem KdfRegs.digest_hmac (r : KdfRegs) (key : List Byte) : (r.hmac key).sha.h.digest = hmacSha256 key r.text := by
  by_cases hk : 64 < key.length <;> simp [KdfRegs.hmac, hmacSha256, hmacKey, hk, ShaRegs.digest_hashOf]

theorem KdfRegs.u_prf (r : KdfRegs) (key : List Byte) (j : Word) (text : List Byte) :
    (r.prf key j text).u = hmacSha256 key text :=
  KdfRegs.digest_hmac _ key

@[simp] theorem KdfRegs.t_prf (r : KdfRegs) (key : List Byte) (j : Word) (text : List Byte) :
    (r.prf key j text).t = r.t := rfl
@[simp] theorem KdfRegs.i_prf (r : KdfRegs) (key : List Byte) (j : Word) (text : List Byte) :
    (r.prf key j text).i = r.i := rfl

/-- The loop of R139 goes on along the chain: `KDF_T` is the XOR of all values so far, `KDF_U` the last of them. -/
theorem KdfRegs.iterate_eq (key x : List Byte) (n m : Nat) (j : Word) (r : KdfRegs) (ht : r.t = prfXor key x m)
    (hu : r.u = prfChain key x m) :
    (KdfRegs.iterate key n j r).t = prfXor key x (m + n) ∧ (KdfRegs.iterate key n j r).u = prfChain key x (m + n)
      ∧ (KdfRegs.iterate key n j r).i = r.i := by
  induction n generalizing m j r with
  | zero => exact ⟨ht, hu, rfl⟩
  | succ n ih =>
    have hu' : (r.prf key j r.u.val).u = prfChain key x (m + 1) := by rw [KdfRegs.u_prf, hu]; rfl
    have h := ih (m + 1) (j + 1) { r.prf key j r.u.val with t := (r.prf key j r.u.val).t.xor (r.prf key j r.u.val).u }
      (by rw [hu', KdfRegs.t_prf, ht]; rfl) hu'
    rwa [Nat.add_right_comm m 1 n] at h

/-- PBKDF2.F leaves `F(P, SALT, ITER, KDF_I)` in `KDF_T`, the last value of the chain in `KDF_U`, and `KDF_I` as it
was. -/
theorem KdfRegs.blockF_eq (cfg : Cfg) (key : List Byte) (salt : Bytes 8) (r : KdfRegs) :
    (r.blockF cfg key salt).t = pbkdf2F key salt cfg.iter r.i
      ∧ (r.blockF cfg key salt).u = prfChain key (salt.val ++ (be32 r.i).val) (cfg.iter - 1)
      ∧ (r.blockF cfg key salt).i = r.i := by
  have hu := r.u_prf key 1 (salt.val ++ (be32 r.i).val)
  have h := KdfRegs.iterate_eq key (salt.val ++ (be32 r.i).val) (cfg.iter - 1) 0 2
    { r.prf key 1 (salt.val ++ (be32 r.i).val) with t := (r.prf key 1 (salt.val ++ (be32 r.i).val)).u } hu hu
  rw [Nat.zero_add] at h
  exact h

/-- KDF.RUN computes the key material of R140. -/
theorem KdfRegs.run_eq (cfg : Cfg) (key : List Byte) (salt : Bytes 8) (r : KdfRegs) :
    (r.run cfg key salt).2 = deriveKey cfg key salt := by
  simp only [KdfRegs.run, deriveKey, (KdfRegs.blockF_eq cfg key salt _).1]

/-! ### The cipher unit -/

/-- AES.ENCBLK (R180). -/
theorem AesRegs.encrypt_eq (r : AesRegs) : r.encrypt = { r with s := aesEncBlk r.rk r.s, r := 14 } := rfl

/-- AES.DECBLK (R181). -/
theorem AesRegs.decrypt_eq (r : AesRegs) : r.decrypt = { r with s := aesDecBlk r.rk r.s, r := 0 } := rfl

end Sys2Proof.Machine
end

section
/-! SUPPORT. A command run from its issue to its end shows the pure function of its operands (45_commands.md R261 to R263,
R268): each command is a chain of micro-operations, whose effects are composed. Here what the commands share, and ENCODE. -/

namespace Sys2Proof.Machine

/-! ### Runs -/

/-- `k` steps lead from `s` to `u`. -/
def State.Reaches (s : State) (k : Nat) (u : State) : Prop := ∀ n, run (n + k) s = run n u

theorem State.Reaches.refl (s : State) : s.Reaches 0 s := fun _ => rfl

theorem State.Reaches.trans {s u v : State} {j k : Nat} (h : s.Reaches j u) (h' : u.Reaches k v) : s.Reaches (j + k) v :=
  fun n => by rw [Nat.add_comm j k, ← Nat.add_assoc, h, h']

theorem Instr.code_running {i : Instr} (hi : i.format = .uop) :
    i.code ≠ phaseIdle ∧ i.code ≠ phaseDoneOk ∧ i.code ≠ phaseDoneErr := by
  revert hi; cases i <;> decide

theorem Instr.decode_code {i : Instr} (hi : i.format = .uop) : Sys2Proof.decode .uop [i.code] = .ok (i, []) := by
  revert hi; cases i <;> decide

/-- With HOST making no move, one step leads from the position of a micro-operation to the state it leaves. -/
theorem State.Reaches.step {i : Instr} {s t u : State} {k : Nat} (hh : s.host = []) (hi : i.format = .uop)
    (hp : s.phase = i.code) (h : exec i s = .next t) (hk : t.Reaches k u) : s.Reaches (k + 1) u := by
  intro n
  have hr : s.running = true := by
    obtain ⟨h1, h2, h3⟩ := Instr.code_running hi
    simp [State.running, hp, h1, h2, h3]
  have hstep : Machine.step s = .next t := ((stepRunsMicroOperation s i hr (hp ▸ Instr.decode_code hi)).1 hh).trans h
  show run (n + k + 1) s = run n u
  simp only [run, hstep, hk n]

theorem run_idle {s : State} (hh : s.host = []) (hr : s.running = false) (n : Nat) : run n s = .next s := by
  induction n with
  | zero => rfl
  | succ n ih => simp only [run, step_idle hh hr, ih]

/-- A run that has come to rest stays there. -/
theorem State.Reaches.run_eq {s u : State} {k m : Nat} (h : s.Reaches k u) (hh : u.host = []) (hr : u.running = false)
    (hk : k ≤ m) : run m s = .next u := by
  obtain ⟨n, rfl⟩ := Nat.exists_eq_add_of_le' hk
  rw [h, run_idle hh hr]

/-! ### What a command keeps on its way -/

/-- `u` has the operands of `s`, HOST makes the same moves, and nothing was drawn. -/
structure State.SameOperands (s u : State) : Prop where
  caps : u.caps = s.caps
  pwLen : u.pwLen = s.pwLen
  inLen : u.inLen = s.inLen
  pw : u.pw = s.pw
  inp : u.inp = s.inp
  epoch : u.epoch = s.epoch
  host : u.host = s.host
  draws : u.draws = s.draws

section
variable {s u v : State}

theorem State.SameOperands.refl (s : State) : s.SameOperands s := ⟨rfl, rfl, rfl, rfl, rfl, rfl, rfl, rfl⟩

theorem State.SameOperands.trans (h : s.SameOperands u) (h' : u.SameOperands v) : s.SameOperands v :=
  ⟨h'.caps.trans h.caps, h'.pwLen.trans h.pwLen, h'.inLen.trans h.inLen, h'.pw.trans h.pw, h'.inp.trans h.inp,
   h'.epoch.trans h.epoch, h'.host.trans h.host, h'.draws.trans h.draws⟩

theorem State.SameOperands.sized (h : s.SameOperands u) (hs : s.Sized) : u.Sized :=
  ⟨h.caps ▸ hs.caps, by rw [h.pwLen, h.caps]; exact hs.pw, by rw [h.inLen, h.caps]; exact hs.inp⟩

theorem State.SameOperands.readByte (h : s.SameOperands u) {sp : Space} (hsp : sp ≠ .out) (a : Nat) :
    u.readByte sp a = s.readByte sp a := by
  cases sp with
  | pw => simp only [State.readByte, State.mem, State.stamp, h.pw, h.epoch]
  | inp => simp only [State.readByte, State.mem, State.stamp, h.inp, h.epoch]
  | out => exact absurd rfl hsp

theorem State.SameOperands.password (h : s.SameOperands u) : u.password = s.password := by
  rw [State.password, h.pwLen]
  exact State.read_congr fun k _ => h.readByte (by decide) _

theorem State.SameOperands.input (h : s.SameOperands u) : u.input = s.input := by
  rw [State.input, h.inLen]
  exact State.read_congr fun k _ => h.readByte (by decide) _

/-- What the end of a command leaves of the operands. -/
theorem State.sameOperands_complete (s : State) (n : Nat) : s.SameOperands (State.complete { s with outLen := n }) :=
  ⟨rfl, rfl, rfl, rfl, rfl, rfl, rfl, rfl⟩

theorem State.sameOperands_raise (s : State) (e : Err) : s.SameOperands (s.raise e) :=
  ⟨rfl, rfl, rfl, rfl, rfl, rfl, rfl, rfl⟩

@[simp] theorem State.readByte_goto (s : State) (p : Byte) (sp : Space) (a : Nat) :
    (s.goto p).readByte sp a = s.readByte sp a := by
  cases sp <;> rfl

theorem State.sameOperands_store (s : State) (off : Nat) (bs : List Byte) : s.SameOperands (s.store .out off bs) :=
  ⟨rfl, rfl, rfl, rfl, rfl, rfl, rfl, rfl⟩

theorem State.sameOperands_encStep (s : State) (p : Bytes 16) : s.SameOperands (s.encStep p) :=
  ⟨rfl, rfl, rfl, rfl, rfl, rfl, rfl, rfl⟩

theorem State.sameOperands_goto (s : State) (p : Byte) : s.SameOperands (s.goto p) :=
  ⟨rfl, rfl, rfl, rfl, rfl, rfl, rfl, rfl⟩

end

/-! ### Reads as lists -/

theorem State.length_input (s : State) : s.input.length = s.inLen := State.length_read _ _ _ _

/-- A part of a longer read. -/
theorem State.read_eq_take_drop (s : State) (sp : Space) {off n len : Nat} (h : off + n ≤ len) :
    s.read sp off n = ((s.read sp 0 len).drop off).take n := by
  apply List.ext_getElem (by simp; omega)
  intro k h1 h2
  simp [State.read]

/-- A part of the input that is read into a register: the bytes beyond it play no role. -/
theorem Bytes.ofList_take (n : Nat) (l : List Byte) : Bytes.ofList n (l.take n) = Bytes.ofList n l := by
  apply Bytes.ext_byte
  intro k hk
  simp [Bytes.byte_ofList n _ hk, List.getD_eq_getElem?_getD, hk]

theorem State.ofList_read_input (s : State) {off n : Nat} (h : off + n ≤ s.inLen) :
    Bytes.ofList n (s.read .inp off n) = Bytes.ofList n (s.input.drop off) := by
  rw [State.read_eq_take_drop s .inp h, Bytes.ofList_take]
  rfl

/-- A padded block (R221) is a block of the padded message. -/
theorem State.padBlock_read (s : State) {k : Nat} (hk : k < paddedBlocks s.inLen) :
    padBlock s.inLen (s.read .inp (16 * k) (bytesInBlock s.inLen k))
      = Bytes.ofList 16 ((padApply s.input).drop (16 * k)) := by
  apply Bytes.ext_byte
  intro j hj
  rw [padBlock, Bytes.byte_ofFn _ hj, Bytes.byte_ofList 16 _ hj]
  simp only [paddedBlocks] at hk
  simp only [List.getD_eq_getElem?_getD, List.getElem?_drop, padApply, State.length_input]
  by_cases hin : 16 * k + j < s.inLen
  · rw [List.getElem?_append_left (by rwa [State.length_input])]
    simp [State.input, State.read, bytesInBlock, hin, show j < 16 ∧ j < s.inLen - 16 * k by omega]
  · rw [List.getElem?_append_right (by rw [State.length_input]; omega), List.getElem?_replicate,
      if_pos (by rw [State.length_input, padLength]; omega), List.getElem?_eq_none (by simp [bytesInBlock]; omega)]
    rfl

/-! ### KDF.RUN to CBC.INIT, which ENCODE and DECODE share -/

/-- The registers after KDF.RUN: the key material of the password and the salt. -/
def State.derived (s : State) : State :=
  { s with kdf := (s.kdf.run Config.cfg s.password s.salt).1, dkm := deriveKey Config.cfg s.password s.salt }

theorem exec_kdfRun {s : State} (hs : s.Sized) : exec .kdfRun s = .next (s.derived.goto Instr.kdfSplit.code) := by
  show execKdfRun s = _
  rw [execKdfRun, State.withPassword, State.reading_fits s _ (by simpa [Caps.cap] using hs.pw), State.derived,
    ← KdfRegs.run_eq Config.cfg s.password s.salt s.kdf]
  rfl

theorem State.dkm_derived (s : State) : s.derived.dkm = deriveKey Config.cfg s.password s.salt := by
  simp only [State.derived]

/-- The registers after AES.KEYEXP and CBC.INIT: the round keys, the IV and the first block index. -/
def State.armed (s : State) : State :=
  { s with aes := { s.aes with rk := aesKeyExp (keyOf s.dkm) }, chain := ivOf s.dkm, blkN := 0 }

theorem State.chain_armed (s : State) : s.armed.chain = ivOf s.dkm := rfl
/-- The position before AES.KEYEXP plays no role. -/
theorem State.armed_goto (s : State) (p q : Byte) : (s.goto p).armed.goto q = s.armed.goto q := rfl
theorem State.rk_armed (s : State) : s.armed.aes.rk = aesKeyExp (keyOf s.dkm) := rfl

/-- KDF.SPLIT goes on to AES.KEYEXP in ENCODE, and in DECODE when the ciphertext length is a positive multiple of 16. -/
theorem exec_kdfSplit_codec {s : State}
    (hc : s.curCmd = Instr.encode.code ∨ s.curCmd = Instr.decode.code ∧ s.badCipherLen = false) :
    exec .kdfSplit s = .next (s.goto Instr.aesKeyexp.code) := by
  show execKdfSplit s = _
  obtain hc | ⟨hc, hb⟩ := hc
  · rw [execKdfSplit, if_neg (by rw [hc]; decide), if_pos hc]
  · rw [execKdfSplit, if_neg (by rw [hc]; decide), if_neg (by rw [hc]; decide), if_pos hc, hb]
    rfl

/-- CBC.INIT goes on to PAD.APPLY in ENCODE, to CBC.DECSTEP in DECODE. -/
theorem exec_cbcInit {s : State} {q : Byte}
    (hc : s.curCmd = Instr.encode.code ∧ q = Instr.padApply.code
      ∨ s.curCmd = Instr.decode.code ∧ q = Instr.cbcDecstep.code) :
    exec .cbcInit s = .next ({ s with chain := ivOf s.dkm, blkN := 0 }.goto q) := by
  show execCbcInit s = _
  obtain ⟨hc, rfl⟩ | ⟨hc, rfl⟩ := hc
  · rw [execCbcInit, if_pos hc]
  · rw [execCbcInit, if_neg (by rw [hc]; decide), if_pos hc]

/-- KDF.SPLIT, AES.KEYEXP and CBC.INIT. -/
theorem State.reaches_armed {s : State} {q : Byte} (hh : s.host = []) (hp : s.phase = Instr.kdfSplit.code)
    (hc : s.curCmd = Instr.encode.code ∧ q = Instr.padApply.code
      ∨ (s.curCmd = Instr.decode.code ∧ s.badCipherLen = false) ∧ q = Instr.cbcDecstep.code) :
    s.Reaches 3 (s.armed.goto q) := by
  refine .step (i := .kdfSplit) hh rfl hp (exec_kdfSplit_codec (hc.imp And.left And.left)) ?_
  refine .step (i := .aesKeyexp) hh rfl rfl rfl ?_
  exact .step (i := .cbcInit) hh rfl rfl (exec_cbcInit (hc.imp id fun h => ⟨h.1.1, h.2⟩)) (.refl _)

/-- `v` has the operands and the salt of `s` and is ready for its first block, under the key and the IV derived from
them. -/
structure State.Keyed (s v : State) : Prop where
  same : s.SameOperands v
  salt : v.salt = s.salt
  blkN : v.blkN = 0
  chain : v.chain = ivOf (deriveKey Config.cfg s.password s.salt)
  rk : v.aes.rk = aesKeyExp (keyOf (deriveKey Config.cfg s.password s.salt))

theorem State.keyed_armed (s : State) (q : Byte) : s.Keyed (s.derived.armed.goto q) :=
  ⟨⟨rfl, rfl, rfl, rfl, rfl, rfl, rfl, rfl⟩, rfl, rfl, by rw [State.chain_goto, State.chain_armed, State.dkm_derived],
    by rw [State.aes_goto, State.rk_armed, State.dkm_derived]⟩

/-- KDF.RUN to CBC.INIT. -/
theorem State.reaches_keyed {s : State} {q : Byte} (hh : s.host = []) (hs : s.Sized) (hp : s.phase = Instr.kdfRun.code)
    (hc : s.curCmd = Instr.encode.code ∧ q = Instr.padApply.code
      ∨ (s.curCmd = Instr.decode.code ∧ s.badCipherLen = false) ∧ q = Instr.cbcDecstep.code) :
    ∃ v, s.Reaches 4 v ∧ s.Keyed v ∧ v.phase = q := by
  have harmed := State.reaches_armed (s := s.derived.goto Instr.kdfSplit.code) hh rfl hc
  rw [State.armed_goto] at harmed
  exact ⟨_, .step hh rfl hp (exec_kdfRun hs) harmed, s.keyed_armed q, rfl⟩

/-! ### The blocks of ENCODE -/

/-- After CBC.ENCSTEP of block `BLK_N` of the padded message: the ciphertext block is in `CHAIN` and in `OUT`. -/
def State.encBlock (s : State) : State :=
  let t := s.encStep (Bytes.ofList 16 ((padApply s.input).drop (16 * s.blkN)))
  t.store .out (16 + 16 * s.blkN) t.chain.val

@[simp] theorem State.blkN_encBlock (s : State) : s.encBlock.blkN = s.blkN + 1 := by simp [State.encBlock]
@[simp] theorem State.salt_encBlock (s : State) : s.encBlock.salt = s.salt := by simp [State.encBlock]
@[simp] theorem State.rk_encBlock (s : State) : s.encBlock.aes.rk = s.aes.rk := by
  simp [State.encBlock, AesRegs.encrypt_eq]
@[simp] theorem State.inLen_encBlock (s : State) : s.encBlock.inLen = s.inLen := by simp [State.encBlock]
@[simp] theorem State.host_encBlock (s : State) : s.encBlock.host = s.host := by simp [State.encBlock]

theorem State.sameOperands_encBlock (s : State) : s.SameOperands s.encBlock :=
  (s.sameOperands_encStep _).trans (State.sameOperands_store _ _ _)

theorem State.chain_encBlock (s : State) : s.encBlock.chain =
    aesEncBlk s.aes.rk ((Bytes.ofList 16 ((padApply s.input).drop (16 * s.blkN))).xor s.chain) := by
  simp [State.encBlock, AesRegs.encrypt_eq]

theorem State.read_encBlock (s : State) : s.encBlock.read .out (16 + 16 * s.blkN) 16 = s.encBlock.chain.val := by
  have h := State.read_store_same (s.encStep (Bytes.ofList 16 ((padApply s.input).drop (16 * s.blkN)))) .out
    (16 + 16 * s.blkN) s.encBlock.chain.val
  rwa [Bytes.length_val] at h

theorem State.readByte_encBlock (s : State) {a : Nat} (ha : a < 16 + 16 * s.blkN) :
    s.encBlock.readByte .out a = s.readByte .out a :=
  State.readByte_store_outside _ _ (.inr (.inl ha))

theorem exec_cbcEncstep {s : State} (hs : s.Sized) (hk : s.blkN < paddedBlocks s.inLen) : exec .cbcEncstep s = .next
    (s.encBlock.goto (if s.blkN + 1 < paddedBlocks s.inLen then Instr.cbcEncstep.code else Instr.ctrFormat.code)) := by
  have hmax := (Caps.outMax_of_wellFormed hs.caps).2
  have hin := hs.inp
  have hlen : 16 * s.blkN ≤ s.inLen := by simp only [paddedBlocks] at hk; omega
  show execCbcEncstep s = _
  rw [execCbcEncstep, State.withPlainBlock,
    State.reading_fits s _ (by simp only [Caps.cap, bytesInBlock]; omega), State.padBlock_read s hk]
  dsimp only
  rw [State.writing_fits _ _ (by simp only [Caps.cap, Bytes.length_val, State.caps_encStep]; omega), State.encBlock]

/-- The loop of CBC.ENCSTEP (R265 g): the blocks that are left go to `OUT` one behind the other. -/
theorem State.reaches_encBlocks (q : Nat) (s : State) (hh : s.host = []) (hs : s.Sized)
    (hp : s.phase = if s.blkN < paddedBlocks s.inLen then Instr.cbcEncstep.code else Instr.ctrFormat.code)
    (hq : s.blkN + q = paddedBlocks s.inLen) :
    ∃ u, s.Reaches q u ∧ s.SameOperands u ∧ u.phase = Instr.ctrFormat.code ∧ u.salt = s.salt
      ∧ (∀ a < 16 + 16 * s.blkN, u.readByte .out a = s.readByte .out a)
      ∧ u.read .out (16 + 16 * s.blkN) (16 * q)
          = cbcEncBlocks s.aes.rk s.chain q ((padApply s.input).drop (16 * s.blkN)) := by
  induction q generalizing s with
  | zero => exact ⟨s, .refl s, .refl s, by rw [hp, if_neg (by omega)], rfl, fun _ _ => rfl, rfl⟩
  | succ q ih =>
    have hk : s.blkN < paddedBlocks s.inLen := by omega
    rw [if_pos hk] at hp
    set p := if s.blkN + 1 < paddedBlocks s.inLen then Instr.cbcEncstep.code else Instr.ctrFormat.code with hpdef
    have hsame := s.sameOperands_encBlock.trans (s.encBlock.sameOperands_goto p)
    obtain ⟨u, hreach, hu, hphase, hsalt, hbelow, hread⟩ := ih (s.encBlock.goto p) (by simpa using hh) (hsame.sized hs)
      hpdef (by simp; omega)
    simp only [State.salt_goto, State.salt_encBlock] at hsalt
    simp only [State.blkN_goto, State.blkN_encBlock, State.readByte_goto] at hbelow
    simp only [State.blkN_goto, State.blkN_encBlock, State.aes_goto, State.rk_encBlock, State.chain_goto,
      hsame.input] at hread
    refine ⟨u, .step hh rfl hp (exec_cbcEncstep hs hk) hreach, hsame.trans hu, hphase, hsalt, fun a ha => ?_, ?_⟩
    · rw [hbelow a (by omega), s.readByte_encBlock ha]
    · have hfirst : u.read .out (16 + 16 * s.blkN) 16 = s.encBlock.chain.val := by
        rw [← s.read_encBlock]
        exact State.read_congr fun j hj => hbelow _ (by omega)
      rw [Nat.mul_succ, Nat.add_comm (16 * q), State.read_add, hfirst, cbcEncBlocks, List.drop_drop]
      rw [Nat.mul_succ, ← Nat.add_assoc] at hread
      rw [hread, State.chain_encBlock]

/-! ### The end of a command -/

/-- A completed command shows what stands in `OUT`. -/
theorem State.shows_complete (s : State) {n : Nat} {out : List Byte} (h : s.read .out 0 n = out) :
    (State.complete { s with outLen := n }).Shows (.ok out) := by
  have hn : n = out.length := by rw [← h, State.length_read]
  refine ⟨State.busy_complete _, State.done_complete _, State.err_complete _, rfl, hn, ?_⟩
  rw [← h]
  refine State.read_congr fun k hk => ?_
  rw [State.readByte_complete _ fun _ => by rw [Nat.zero_add]; exact hk]
  rfl

theorem State.shows_raise (s : State) (e : Err) : (s.raise e).Shows (.error e) :=
  ⟨State.busy_raise _ _, State.done_raise _ _, State.err_raise _ _, rfl, rfl⟩

theorem State.Shows.not_running {u : State} {r : Except Err (List Byte)} (h : u.Shows r) : u.running = false := by
  obtain ⟨-, -, h⟩ := h
  cases r with
  | ok out => obtain ⟨-, hp, -⟩ := h; simp [State.running, hp]
  | error e => obtain ⟨-, hp, -⟩ := h; simp [State.running, hp]

/-- What one result shows is the same on two machines. -/
theorem State.Shows.agree {u u' : State} {r : Except Err (List Byte)} (h : u.Shows r) (h' : u'.Shows r) :
    u.done = true ∧ u'.done = true ∧ u.err = u'.err ∧ u.outLen = u'.outLen ∧ u.output = u'.output := by
  obtain ⟨-, hd, h⟩ := h
  obtain ⟨-, hd', h'⟩ := h'
  cases r with
  | ok out =>
    obtain ⟨he, -, hl, ho⟩ := h
    obtain ⟨he', -, hl', ho'⟩ := h'
    exact ⟨hd, hd', he.trans he'.symm, hl.trans hl'.symm, ho.trans ho'.symm⟩
  | error e =>
    obtain ⟨he, -, hl⟩ := h
    obtain ⟨he', -, hl'⟩ := h'
    refine ⟨hd, hd', he.trans he'.symm, hl.trans hl'.symm, ?_⟩
    simp [State.output, State.read, hl, hl']

/-- The command that `t` has started from the operands of `s` ends, after `n` steps at most, with the result `r`, the
operands as they were and the source after `draws` draws. -/
structure State.EndsWith (s t : State) (n : Nat) (r : Except Err (List Byte)) (draws : Nat) (u : State) : Prop where
  run : Machine.run n t = .next u
  shows : u.Shows r
  password : u.password = s.password
  input : u.input = s.input
  draws : u.draws = draws

/-- A run that reaches a result within `n` steps ends with it. -/
theorem State.Reaches.endsWith {s t v u : State} {k n : Nat} {r : Except Err (List Byte)} (h : t.Reaches k u) (hk : k ≤ n)
    (hu : v.SameOperands u) (hh : v.host = []) (hpw : v.password = s.password) (hin : v.input = s.input)
    (hr : u.Shows r) : s.EndsWith t n r v.draws u :=
  ⟨h.run_eq (hu.host.trans hh) hr.not_running hk, hr, hu.password.trans hpw, hu.input.trans hin, hu.draws⟩

/-! ### ENCODE -/

/-- The buffers after CTR.FORMAT's writes: the header. -/
def State.headed (s : State) : State := (s.store .out 0 Config.cfg.marker.val).store .out 8 s.salt.val

theorem State.sameOperands_headed (s : State) : s.SameOperands s.headed :=
  (s.sameOperands_store _ _).trans (State.sameOperands_store _ _ _)

theorem State.read_headed (s : State) : s.headed.read .out 0 16 = Config.cfg.marker.val ++ s.salt.val := by
  rw [State.read_add s.headed .out 0 8 8]
  refine congrArg₂ _ ?_ ?_
  · refine Eq.trans (State.read_congr fun k hk => ?_) (State.read_store_same s .out 0 Config.cfg.marker.val)
    exact State.readByte_store_outside _ _ (.inr (.inl (by simpa using hk)))
  · have h := State.read_store_same (s.store .out 0 Config.cfg.marker.val) .out 8 s.salt.val
    rwa [Bytes.length_val] at h

theorem State.readByte_headed (s : State) {a : Nat} (ha : 16 ≤ a) : s.headed.readByte .out a = s.readByte .out a := by
  rw [State.headed, State.readByte_store_outside _ _ (.inr (.inr (by simpa using ha))),
    State.readByte_store_outside _ _ (.inr (.inr (by simp; omega)))]

theorem exec_ctrFormat {s : State} (hs : s.Sized) : exec .ctrFormat s
    = .next (State.complete { s.headed with outLen := 16 + 16 * paddedBlocks s.inLen }) := by
  have hmax := (Caps.outMax_of_wellFormed hs.caps).1
  show s.ctrFormat Config.cfg = _
  rw [State.ctrFormat, State.writing_fits _ _ (by simp only [Caps.cap, Bytes.length_val]; omega),
    State.writing_fits _ _ (by simp only [Caps.cap, Bytes.length_val, State.caps_store]; omega)]
  rfl

theorem length_padApply (m : List Byte) : (padApply m).length = 16 * paddedBlocks m.length := by
  simp only [padApply, padLength, paddedBlocks, List.length_append, List.length_replicate]
  omega

/-- PAD.APPLY to CTR.FORMAT: the container is the header and the ciphertext of the padded message. -/
theorem State.reaches_container {v : State} (hh : v.host = []) (hs : v.Sized) (hp : v.phase = Instr.padApply.code)
    (hk : v.blkN = 0) : ∃ u, v.Reaches (paddedBlocks v.inLen + 2) u ∧ v.SameOperands u
      ∧ u.Shows (.ok (Config.cfg.marker.val ++ v.salt.val
          ++ cbcEncBlocks v.aes.rk v.chain (paddedBlocks v.inLen) (padApply v.input))) := by
  have hvw : v.SameOperands ({ v with padLen := BitVec.ofNat 5 (padLength v.inLen) }.goto Instr.cbcEncstep.code) :=
    ⟨rfl, rfl, rfl, rfl, rfl, rfl, rfl, rfl⟩
  obtain ⟨x, hblocks, hwx, hphase, hsalt, -, hread⟩ := State.reaches_encBlocks (paddedBlocks v.inLen) _
    (hvw.host.trans hh) (hvw.sized hs) (by simp [hk, paddedBlocks]) (by simp [hk])
  have hvx := hvw.trans hwx
  have hend := State.Reaches.step (hvx.host.trans hh) rfl hphase (exec_ctrFormat (hvx.sized hs)) (.refl _)
  refine ⟨_, .step hh rfl hp rfl (hblocks.trans hend),
    hvx.trans (x.sameOperands_headed.trans (x.headed.sameOperands_complete _)), ?_⟩
  apply State.shows_complete
  have hcbc : x.read .out 16 (16 * paddedBlocks v.inLen)
      = cbcEncBlocks v.aes.rk v.chain (paddedBlocks v.inLen) (padApply v.input) := by
    rw [hvw.input] at hread
    simpa [hk] using hread
  have htail : x.headed.read .out 16 (16 * paddedBlocks v.inLen) = x.read .out 16 (16 * paddedBlocks v.inLen) :=
    State.read_congr fun k _ => x.readByte_headed (by omega)
  rw [State.read_add, State.read_headed, hsalt, hvx.inLen, Nat.zero_add, htail, hcbc]
  rfl

/-- ENCODE shows the container of its operands and the draw (R262). -/
theorem encode_endsWith {s t : State} (hs : s.Sized) (hh : s.host = []) (h : exec .encode s = .next t) :
    ∃ u, s.EndsWith t (stepsOf .encode s.inLen) (.ok (encodeFn Config.cfg s.password s.input s.nextDraw))
      (s.draws + 1) u := by
  obtain ⟨-, h⟩ := State.whenIdle_next h
  cases h
  have hdraw := State.Reaches.step (i := .rngSalt) (s := s.issue Instr.encode.code Instr.rngSalt.code) hh rfl rfl rfl
    (.refl _)
  obtain ⟨v, hkey, hv, hp⟩ := State.reaches_keyed
    (s := { (s.issue Instr.encode.code Instr.rngSalt.code).drawn with salt := s.nextDraw }.goto Instr.kdfRun.code)
    hh ⟨hs.caps, hs.pw, hs.inp⟩ rfl (.inl ⟨rfl, rfl⟩)
  obtain ⟨u, hend, hu, hshows⟩ := State.reaches_container (hv.same.host.trans hh)
    (hv.same.sized ⟨hs.caps, hs.pw, hs.inp⟩) hp hv.blkN
  have hlen : v.inLen = s.inLen := hv.same.inLen
  have hin : v.input = s.input := hv.same.input
  refine ⟨u, ((hdraw.trans hkey).trans hend).endsWith ?_ (hv.same.trans hu) hh rfl rfl ?_⟩
  · simp only [stepsOf, hlen]
    omega
  · rw [encodeFn, cbcEnc, length_padApply, State.length_input, Nat.mul_div_cancel_left _ (by decide)]
    rw [hv.salt, hv.rk, hv.chain, hlen, hin] at hshows
    exact hshows

end Sys2Proof.Machine
end

section
/-! SUPPORT. DECODE and DERIVE run to their ends, and what the three commands show: a function of the code, the password,
the input and the draw (45_commands.md R268), so that nothing carries over from what the machine did before (10_state.md
R36). -/

namespace Sys2Proof.Machine

/-! ### The blocks of DECODE -/

/-- Block `BLK_N` of the ciphertext. -/
def State.cipherBlock (s : State) : Bytes 16 := Bytes.ofList 16 (s.input.drop (16 + 16 * s.blkN))

/-- After CBC.DECSTEP of block `BLK_N`: the ciphertext block is in `CHAIN`, the plaintext block in `OUT`. -/
def State.decBlock (s : State) : State :=
  (s.decStep s.cipherBlock).store .out (16 * s.blkN) (s.decPlain s.cipherBlock).val

@[simp] theorem State.blkN_decBlock (s : State) : s.decBlock.blkN = s.blkN + 1 := by simp [State.decBlock]
@[simp] theorem State.inLen_decBlock (s : State) : s.decBlock.inLen = s.inLen := by simp [State.decBlock]
@[simp] theorem State.host_decBlock (s : State) : s.decBlock.host = s.host := by simp [State.decBlock]
@[simp] theorem State.chain_decBlock (s : State) : s.decBlock.chain = s.cipherBlock := by simp [State.decBlock]
@[simp] theorem State.rk_decBlock (s : State) : s.decBlock.aes.rk = s.aes.rk := by
  simp [State.decBlock, AesRegs.decrypt_eq]

theorem State.sameOperands_decBlock (s : State) : s.SameOperands s.decBlock :=
  State.SameOperands.trans (u := s.decStep s.cipherBlock) ⟨rfl, rfl, rfl, rfl, rfl, rfl, rfl, rfl⟩
    (State.sameOperands_store _ _ _)

theorem State.read_decBlock (s : State) :
    s.decBlock.read .out (16 * s.blkN) 16 = ((aesDecBlk s.aes.rk s.cipherBlock).xor s.chain).val := by
  have h := State.read_store_same (s.decStep s.cipherBlock) .out (16 * s.blkN) (s.decPlain s.cipherBlock).val
  rw [Bytes.length_val] at h
  rw [State.decBlock, h, State.decPlain, State.aes_decStep, AesRegs.decrypt_eq]

theorem State.readByte_decBlock (s : State) {a : Nat} (ha : a < 16 * s.blkN) :
    s.decBlock.readByte .out a = s.readByte .out a :=
  State.readByte_store_outside _ _ (.inr (.inl ha))

theorem exec_cbcDecstep {s : State} (hs : s.Sized) (hk : s.blkN < s.cipherLen / 16) : exec .cbcDecstep s = .next
    (s.decBlock.goto (if s.blkN + 1 < s.cipherLen / 16 then Instr.cbcDecstep.code else Instr.padInspect.code)) := by
  have hmax := (Caps.outMax_of_wellFormed hs.caps).2
  have hin := hs.inp
  have hlen : 16 + 16 * s.blkN + 16 ≤ s.inLen := by simp only [State.cipherLen] at hk; omega
  show execCbcDecstep s = _
  rw [execCbcDecstep, State.withCipherBlock, State.reading_fits s _ (by simp only [Caps.cap]; omega),
    s.ofList_read_input hlen,
    State.writing_fits _ _ (by simp only [Caps.cap, Bytes.length_val, State.caps_decStep]; omega), State.decBlock,
    State.cipherBlock]

/-- The loop of CBC.DECSTEP (R265 h): the plaintext of the blocks that are left goes to `OUT`, one behind the other. -/
theorem State.reaches_decBlocks (q : Nat) (s : State) (hh : s.host = []) (hs : s.Sized)
    (hp : s.phase = if s.blkN < s.cipherLen / 16 then Instr.cbcDecstep.code else Instr.padInspect.code)
    (hq : s.blkN + q = s.cipherLen / 16) :
    ∃ u, s.Reaches q u ∧ s.SameOperands u ∧ u.phase = Instr.padInspect.code
      ∧ (∀ a < 16 * s.blkN, u.readByte .out a = s.readByte .out a)
      ∧ u.read .out (16 * s.blkN) (16 * q) = cbcDecBlocks s.aes.rk s.chain q (s.input.drop (16 + 16 * s.blkN)) := by
  induction q generalizing s with
  | zero => exact ⟨s, .refl s, .refl s, by rw [hp, if_neg (by omega)], fun _ _ => rfl, rfl⟩
  | succ q ih =>
    have hk : s.blkN < s.cipherLen / 16 := by omega
    rw [if_pos hk] at hp
    set p := if s.blkN + 1 < s.cipherLen / 16 then Instr.cbcDecstep.code else Instr.padInspect.code with hpdef
    have hsame := s.sameOperands_decBlock.trans (s.decBlock.sameOperands_goto p)
    have hlen : (s.decBlock.goto p).cipherLen = s.cipherLen := by simp [State.cipherLen]
    obtain ⟨u, hreach, hu, hphase, hbelow, hread⟩ := ih (s.decBlock.goto p) (by simpa using hh) (hsame.sized hs)
      (by rw [hlen]; simpa using hpdef) (by rw [hlen]; simp; omega)
    simp only [State.blkN_goto, State.blkN_decBlock, State.readByte_goto] at hbelow
    simp only [State.blkN_goto, State.blkN_decBlock, State.aes_goto, State.rk_decBlock, State.chain_goto,
      State.chain_decBlock, hsame.input] at hread
    refine ⟨u, .step hh rfl hp (exec_cbcDecstep hs hk) hreach, hsame.trans hu, hphase, fun a ha => ?_, ?_⟩
    · rw [hbelow a (by omega), s.readByte_decBlock ha]
    · have hfirst : u.read .out (16 * s.blkN) 16 = ((aesDecBlk s.aes.rk s.cipherBlock).xor s.chain).val := by
        rw [← s.read_decBlock]
        exact State.read_congr fun j hj => hbelow _ (by omega)
      rw [Nat.mul_succ, Nat.add_comm (16 * q), State.read_add, hfirst, cbcDecBlocks, List.drop_drop]
      rw [Nat.mul_succ, ← Nat.add_assoc] at hread
      rw [hread, State.cipherBlock]

/-! ### The end of DECODE -/

theorem padCheck_le {d : List Byte} {n : Nat} (h : padCheck d = some n) : n ≤ 16 := by
  simp only [padCheck] at h
  split_ifs at h with hc
  obtain ⟨-, hle, -⟩ := hc
  cases h
  exact hle

/-- What DECODE gives when its decrypted data is inspected (R263): the message, or PaddingError. -/
def inspected (d : List Byte) : Except Err (List Byte) :=
  match padInspect d with
  | none => .error .paddingError
  | some m => .ok m

theorem inspected_of_none {d : List Byte} (h : padCheck d = none) : inspected d = .error .paddingError := by
  simp [inspected, padInspect, h]

theorem inspected_of_some {d : List Byte} {n : Nat} (h : padCheck d = some n) :
    inspected d = .ok (d.take (d.length - n)) := by
  simp [inspected, padInspect, h]

/-- PAD.INSPECT ends DECODE with what the inspection of `OUT[0..L-1]` gives. -/
theorem exec_padInspect {s : State} (hs : s.Sized) :
    ∃ u, exec .padInspect s = .next u ∧ s.SameOperands u ∧ u.Shows (inspected (s.read .out 0 s.cipherLen)) := by
  have hmax := (Caps.outMax_of_wellFormed hs.caps).2
  have hin := hs.inp
  show ∃ u, execPadInspect s = _ ∧ _
  rw [execPadInspect, State.reading_fits s _ (by simp only [Caps.cap, State.cipherLen]; omega)]
  cases hc : padCheck (s.read .out 0 s.cipherLen) with
  | none =>
    refine ⟨_, rfl, ⟨rfl, rfl, rfl, rfl, rfl, rfl, rfl, rfl⟩, ?_⟩
    rw [inspected_of_none hc]
    exact State.shows_raise _ _
  | some n =>
    refine ⟨_, rfl, ⟨rfl, rfl, rfl, rfl, rfl, rfl, rfl, rfl⟩, ?_⟩
    have hn : (BitVec.ofNat 5 n).toNat = n := Nat.mod_eq_of_lt (Nat.lt_of_le_of_lt (padCheck_le hc) (by decide))
    rw [inspected_of_some hc]
    refine State.shows_complete { s with padOk := true, padLen := BitVec.ofNat 5 n } ?_
    rw [hn, State.length_read]
    exact State.read_eq_take_drop s .out (by omega)

/-- The first CBC.DECSTEP to PAD.INSPECT. -/
theorem State.reaches_plaintext {v : State} (hh : v.host = []) (hs : v.Sized) (hp : v.phase = Instr.cbcDecstep.code)
    (hk : v.blkN = 0) (hb : v.badCipherLen = false) : ∃ u, v.Reaches (v.cipherLen / 16 + 1) u ∧ v.SameOperands u
      ∧ u.Shows (inspected (cbcDecBlocks v.aes.rk v.chain (v.cipherLen / 16) (v.input.drop 16))) := by
  simp only [State.badCipherLen, Bool.or_eq_false_iff, beq_eq_false_iff_ne, bne_eq_false_iff_eq] at hb
  obtain ⟨x, hblocks, hvx, hphase, -, hread⟩ := v.reaches_decBlocks (v.cipherLen / 16) hh hs
    (by rw [hp, if_pos (by omega)]) (by rw [hk, Nat.zero_add])
  obtain ⟨u, hexec, hxu, hshows⟩ := exec_padInspect (hvx.sized hs)
  refine ⟨u, hblocks.trans (.step (hvx.host.trans hh) rfl hphase hexec (.refl u)), hvx.trans hxu, ?_⟩
  have hlen : x.cipherLen = 16 * (v.cipherLen / 16) := by rw [State.cipherLen, hvx.inLen, ← State.cipherLen]; omega
  rw [hk, ← hlen] at hread
  rwa [hread] at hshows

/-! ### DECODE -/

theorem exec_ctrParse_short {s : State} (hl : s.inLen < 16) : exec .ctrParse s = .next (s.raise .formatError) := by
  show s.ctrParse Config.cfg = _
  rw [State.ctrParse, if_pos hl]

/-- CTR.PARSE takes the salt from the input. -/
theorem exec_ctrParse {s : State} (hs : s.Sized) (hl : 16 ≤ s.inLen) : exec .ctrParse s
    = .next ({ s with salt := Bytes.ofList 8 (s.input.drop 8) }.goto Instr.kdfRun.code) := by
  have hin := hs.inp
  show s.ctrParse Config.cfg = _
  rw [State.ctrParse, if_neg (by omega), if_neg (by decide), State.takeSalt, State.withSaltField,
    State.reading_fits s _ (by simp only [Caps.cap]; omega), s.ofList_read_input (by omega)]

theorem exec_kdfSplit_bad {s : State} (hc : s.curCmd = Instr.decode.code) (hb : s.badCipherLen = true) :
    exec .kdfSplit s = .next (s.raise .paddingError) := by
  show execKdfSplit s = _
  rw [execKdfSplit, if_neg (by rw [hc]; decide), if_neg (by rw [hc]; decide), if_pos hc, if_pos hb]

/-- DECODE of a container in this hardware, with the ciphertext-length test as KDF.SPLIT makes it. -/
theorem State.decodeFn_input (s : State) : decodeFn Config.cfg s.password s.input =
    if s.inLen < 16 then .error .formatError
    else if s.badCipherLen then .error .paddingError
    else
      let dkm := deriveKey Config.cfg s.password (Bytes.ofList 8 (s.input.drop 8))
      inspected (cbcDecBlocks (aesKeyExp (keyOf dkm)) (ivOf dkm) (s.cipherLen / 16) (s.input.drop 16)) := by
  have hbad : ((s.input.drop 16).length = 0 ∨ (s.input.drop 16).length % 16 ≠ 0) ↔ s.badCipherLen = true := by
    simp [State.badCipherLen, State.cipherLen, State.length_input]
  rw [decodeFn, State.length_input, if_neg (c := Config.cfg.strictMarker = true ∧ _) (fun h => absurd h.1 (by decide))]
  simp only [hbad]
  simp only [cbcDec, List.length_drop, State.length_input, State.cipherLen]
  rfl

/-- DECODE shows the plaintext or the first error of its operands (R263, R305). -/
theorem decode_endsWith {s t : State} (hs : s.Sized) (hh : s.host = []) (h : exec .decode s = .next t) :
    ∃ u, s.EndsWith t (stepsOf .decode s.inLen) (decodeFn Config.cfg s.password s.input) s.draws u := by
  obtain ⟨-, h⟩ := State.whenIdle_next h
  cases h
  have hts : (s.issue Instr.decode.code Instr.ctrParse.code).Sized := ⟨hs.caps, hs.pw, hs.inp⟩
  rw [State.decodeFn_input]
  by_cases hl : s.inLen < 16
  · have hend := State.Reaches.step (s := s.issue Instr.decode.code Instr.ctrParse.code) hh rfl rfl
      (exec_ctrParse_short hl) (.refl _)
    rw [if_pos hl]
    exact ⟨_, hend.endsWith (v := s) (by simp only [stepsOf]; omega) ⟨rfl, rfl, rfl, rfl, rfl, rfl, rfl, rfl⟩ hh rfl rfl
      (State.shows_raise _ _)⟩
  · have hparse := State.Reaches.step (s := s.issue Instr.decode.code Instr.ctrParse.code) hh rfl rfl
      (exec_ctrParse hts (by simpa using hl)) (.refl _)
    rw [if_neg hl]
    set w := State.goto { s.issue Instr.decode.code Instr.ctrParse.code with
      salt := Bytes.ofList 8 ((s.issue Instr.decode.code Instr.ctrParse.code).input.drop 8) } Instr.kdfRun.code
    have hsw : s.SameOperands w := ⟨rfl, rfl, rfl, rfl, rfl, rfl, rfl, rfl⟩
    have hws : w.Sized := hsw.sized hs
    cases hb : s.badCipherLen with
    | true =>
      have hend := State.Reaches.step (s := w) hh rfl rfl (exec_kdfRun hws)
        (.step (i := .kdfSplit) hh rfl rfl (exec_kdfSplit_bad rfl hb) (.refl _))
      exact ⟨_, (hparse.trans hend).endsWith (v := s) (by simp only [stepsOf]; omega)
        (hsw.trans ⟨rfl, rfl, rfl, rfl, rfl, rfl, rfl, rfl⟩) hh rfl rfl (State.shows_raise _ _)⟩
    | false =>
      obtain ⟨v, hkey, hv, hp⟩ := w.reaches_keyed hh hws rfl (.inr ⟨⟨rfl, hb⟩, rfl⟩)
      have hsv := hsw.trans hv.same
      have hlen : v.cipherLen = s.cipherLen := by rw [State.cipherLen, hsv.inLen, State.cipherLen]
      obtain ⟨u, hend, hu, hshows⟩ := v.reaches_plaintext (hsv.host.trans hh) (hsv.sized hs) hp hv.blkN
        (by rw [State.badCipherLen, hlen]; exact hb)
      refine ⟨u, ((hparse.trans hkey).trans hend).endsWith (v := s) ?_ (hsv.trans hu) hh rfl rfl ?_⟩
      · rw [hlen]
        simp only [stepsOf, State.cipherLen]
        omega
      · rw [hv.rk, hv.chain, hlen, hsv.input, hsw.password] at hshows
        exact hshows

/-! ### DERIVE -/

/-- What follows KDF.SPLIT in DERIVE (R261). -/
theorem exec_kdfSplit_derive {s : State} (hs : s.Sized) (hc : s.curCmd = Instr.derive.code) :
    exec .kdfSplit s = .next (State.complete { s.store .out 0 s.dkm.val with outLen := 48 }) := by
  have hmax := (Caps.outMax_of_wellFormed hs.caps).1
  show execKdfSplit s = _
  rw [execKdfSplit, if_pos hc, State.deriveEnd,
    State.writing_fits _ _ (by simpa only [Caps.cap, Bytes.length_val, Nat.zero_add] using hmax)]

/-- The issue of DERIVE with an 8-byte salt operand. -/
theorem exec_derive {s : State} (hs : s.Sized) (hb : s.busy = false) (hl : s.inLen = 8) : exec .derive s
    = .next { s.issue Instr.derive.code Instr.kdfRun.code with salt := Bytes.ofList 8 s.input } := by
  have hin := hs.inp
  show execDerive s = _
  rw [execDerive, State.whenIdle_idle _ hb, if_neg (by simpa using hl), State.withSaltField,
    State.reading_fits _ _ (by simp only [Caps.cap, State.caps_issue]; omega), State.input, hl]
  rfl

theorem exec_derive_bad {s : State} (hb : s.busy = false) (hl : s.inLen ≠ 8) :
    exec .derive s = .next ((s.issue Instr.derive.code Instr.kdfRun.code).raise .derivationError) := by
  show execDerive s = _
  rw [execDerive, State.whenIdle_idle _ hb, if_pos (by simpa using hl)]

/-- DERIVE shows the key material of the password and the salt operand (R261). -/
theorem derive_endsWith {s t : State} (hs : s.Sized) (hh : s.host = []) (h : exec .derive s = .next t) :
    ∃ u, s.EndsWith t (stepsOf .derive s.inLen) (deriveFn Config.cfg s.password s.input) s.draws u := by
  have hb : s.busy = false := (State.whenIdle_next h).1
  rw [deriveFn, State.length_input]
  by_cases hl : s.inLen = 8
  · rw [exec_derive hs hb hl] at h
    cases h
    set w := { s.issue Instr.derive.code Instr.kdfRun.code with salt := Bytes.ofList 8 s.input }
    have hsw : s.SameOperands w := ⟨rfl, rfl, rfl, rfl, rfl, rfl, rfl, rfl⟩
    have hsv : s.SameOperands (w.derived.goto Instr.kdfSplit.code) := hsw.trans ⟨rfl, rfl, rfl, rfl, rfl, rfl, rfl, rfl⟩
    have hend := State.Reaches.step (s := w) hh rfl rfl (exec_kdfRun (hsw.sized hs))
      (.step (i := .kdfSplit) hh rfl rfl (exec_kdfSplit_derive (hsv.sized hs) rfl) (.refl _))
    rw [if_neg (not_not.mpr hl)]
    refine ⟨_, hend.endsWith (v := s) (Nat.le_succ 2)
      (hsv.trans ((State.sameOperands_store _ _ _).trans (State.sameOperands_complete _ _))) hh rfl rfl
      (State.shows_complete _ ?_)⟩
    have hread := State.read_store_same (w.derived.goto Instr.kdfSplit.code) .out 0
      (w.derived.goto Instr.kdfSplit.code).dkm.val
    rw [Bytes.length_val] at hread
    rw [hread, State.dkm_goto, State.dkm_derived, hsw.password]
  · rw [exec_derive_bad hb hl] at h
    cases h
    rw [if_pos hl]
    exact ⟨_, (State.Reaches.refl _).endsWith (v := s) (Nat.zero_le _) ⟨rfl, rfl, rfl, rfl, rfl, rfl, rfl, rfl⟩ hh rfl rfl
      (State.shows_raise _ _)⟩

/-! ### Every command -/

/-- A command ends showing the function of its operands and the draw (R268). -/
theorem command_endsWith {i : Instr} {s t : State} (hi : i.format = .cmd) (hs : s.Sized) (hh : s.host = [])
    (h : exec i s = .next t) : ∃ u r draws, commandFn Config.cfg i s.password s.input s.nextDraw = some r
      ∧ s.EndsWith t (stepsOf i s.inLen) r draws u := by
  cases i with
  | derive => obtain ⟨u, hu⟩ := derive_endsWith hs hh h; exact ⟨u, _, _, rfl, hu⟩
  | encode => obtain ⟨u, hu⟩ := encode_endsWith hs hh h; exact ⟨u, _, _, rfl, hu⟩
  | decode => obtain ⟨u, hu⟩ := decode_endsWith hs hh h; exact ⟨u, _, _, rfl, hu⟩
  | _ => cases hi

/-- Settles O56: both machines show `commandFn` of the same operands and draw (`command_endsWith`). -/
theorem nothingCarriesOver : Obligations.NothingCarriesOver := by
  intro i s s' t t' hi hs _ hh h hs' _ hh' h' hpw hin hdraw
  obtain ⟨u, r, _, hr, hu⟩ := command_endsWith hi hs hh h
  obtain ⟨u', r', _, hr', hu'⟩ := command_endsWith hi hs' hh' h'
  rw [hpw, hin, hdraw, hr', Option.some.injEq] at hr
  subst hr
  exact ⟨u, u', hu.run, hu'.run, hu.shows.agree hu'.shows⟩

end Sys2Proof.Machine
end

section
/-! SUPPORT. The frame of the operands (20_memory.md R61, R74), and the reason no step of a machine that meets the
invariant faults (R62, R245): every instruction, at a position of its command, goes on. -/

namespace Sys2Proof.Machine

/-! ### What no instruction writes -/

section
variable {s u : State}

theorem State.Works.host (h : s.Works u) : u.host = s.host := (congrArg State.host h :)
theorem State.Works.seen (h : s.Works u) : u.seen = s.seen := (congrArg State.seen h :)

/-- The work of a micro-operation leaves the operands, the capacities and the outside world alone. -/
theorem State.Works.operands (h : s.Works u) :
    u.pw = s.pw ∧ u.inp = s.inp ∧ u.pwLen = s.pwLen ∧ u.inLen = s.inLen ∧ u.caps = s.caps
      ∧ u.host = s.host ∧ u.seen = s.seen ∧ u.epoch = s.epoch :=
  ⟨h.pw, h.inp, h.pwLen, h.inLen, h.caps, h.host, h.seen, h.epoch⟩

end

/-- Settles O13: issue, the work of a micro-operation, and its going on, completion or error entry each write none of
them. -/
theorem execKeepsOperands : Obligations.ExecKeepsOperands := by
  intro i s t h
  cases hi : i.format with
  | cmd =>
    obtain ⟨-, ⟨-, -, rfl⟩ | ⟨first, -, hw, -⟩⟩ := exec_cmd_next hi h
    · exact (State.Works.refl s).operands
    · exact hw.operands
  | uop =>
    obtain ⟨u, hd⟩ := exec_uop_did hi h
    obtain ⟨p, -, rfl⟩ | ⟨n, -, rfl⟩ | ⟨-, -, rfl⟩ | ⟨-, -, -, rfl⟩ | ⟨-, -, rfl⟩ := hd.leaves
    all_goals exact hd.works.operands

/-! ### Every instruction goes on -/

/-- A micro-operation under the password goes on: the password lies within `PW`. -/
theorem State.withPassword_fits {s : State} (hs : s.Sized) (k : List Byte → Out) : s.withPassword k = k s.password :=
  State.reading_fits s k (by simpa [Caps.cap] using hs.pw)

theorem exec_hmac {s : State} (hs : s.Sized) :
    exec .hmac s = .next ({ s with kdf := s.kdf.hmac s.password }.goto Instr.pbkdf2F.code) := by
  show execHmac s = _
  rw [execHmac, State.withPassword_fits hs]

theorem exec_pbkdf2F {s : State} (hs : s.Sized) :
    exec .pbkdf2F s = .next ({ s with kdf := s.kdf.blockF Config.cfg s.password s.salt }.goto Instr.kdfRun.code) := by
  show execPbkdf2F s = _
  rw [execPbkdf2F, State.withPassword_fits hs]

/-- CBC.INIT stands in the microprograms of ENCODE and DECODE only, CBC.ENCSTEP in that of ENCODE, CBC.DECSTEP in that of
DECODE (R264). -/
theorem microprogram_cbc : ∀ cmd ∈ [0x01, 0x02, 0x03],
    (Instr.cbcInit.code ∈ microprogram cmd → cmd = Instr.encode.code ∨ cmd = Instr.decode.code)
      ∧ (Instr.cbcEncstep.code ∈ microprogram cmd → cmd = Instr.encode.code)
      ∧ (Instr.cbcDecstep.code ∈ microprogram cmd → cmd = Instr.decode.code) := by
  decide

/-- KDF.SPLIT goes on in every command. -/
theorem exec_kdfSplit_goes_on {s : State} (hs : s.Sized) (hc : s.curCmd ∈ [0x01, 0x02, 0x03]) :
    ∃ t, exec .kdfSplit s = .next t := by
  simp only [List.mem_cons, List.not_mem_nil, or_false] at hc
  obtain hc | hc | hc := hc
  · exact ⟨_, exec_kdfSplit_derive hs hc⟩
  · exact ⟨_, exec_kdfSplit_codec (.inl hc)⟩
  · cases hb : s.badCipherLen with
    | true => exact ⟨_, exec_kdfSplit_bad hc hb⟩
    | false => exact ⟨_, exec_kdfSplit_codec (.inr ⟨hc, hb⟩)⟩

theorem exec_ctrParse_goes_on {s : State} (hs : s.Sized) : ∃ t, exec .ctrParse s = .next t := by
  obtain hl | hl := Nat.lt_or_ge s.inLen 16
  · exact ⟨_, exec_ctrParse_short hl⟩
  · exact ⟨_, exec_ctrParse hs hl⟩

/-- A micro-operation of the command's microprogram goes on: its operands lie within their buffers, and R264 gives it a
successor. -/
theorem exec_uop_goes_on {i : Instr} {s : State} (hi : i.format = .uop) (hs : s.Sized) (hu : s.Underway)
    (hst : s.status = 0x01) (hp : s.phase = i.code) (hm : s.phase ∈ microprogram s.curCmd) :
    ∃ t, exec i s = .next t := by
  have hcmd := mem_microprogram_cmd hm
  obtain ⟨hinit, henc, hdec⟩ := microprogram_cbc _ hcmd
  cases i with
  | derive | encode | decode => cases hi
  | sha256Compress | sha256Hash | aesKeyexp | aesEncblk | aesDecblk | padApply | rngSalt => exact ⟨_, rfl⟩
  | hmac => exact ⟨_, exec_hmac hs⟩
  | pbkdf2F => exact ⟨_, exec_pbkdf2F hs⟩
  | kdfRun => exact ⟨_, exec_kdfRun hs⟩
  | kdfSplit => exact exec_kdfSplit_goes_on hs hcmd
  | cbcInit =>
    obtain hc | hc := hinit (hp ▸ hm)
    · exact ⟨_, exec_cbcInit (.inl ⟨hc, rfl⟩)⟩
    · exact ⟨_, exec_cbcInit (.inr ⟨hc, rfl⟩)⟩
  | cbcEncstep => exact ⟨_, exec_cbcEncstep hs (hu.encIndex hst (henc (hp ▸ hm)) (by rw [hp]; decide))⟩
  | cbcDecstep => exact ⟨_, exec_cbcDecstep hs (hu.decIndex hst (hdec (hp ▸ hm)) (by rw [hp]; decide))⟩
  | padInspect => obtain ⟨t, ht, -⟩ := exec_padInspect hs; exact ⟨t, ht⟩
  | ctrFormat => exact ⟨_, exec_ctrFormat hs⟩
  | ctrParse => exact exec_ctrParse_goes_on hs

/-- A command issued while `BUSY = 0` goes on. -/
theorem exec_cmd_goes_on {i : Instr} {s : State} (hi : i.format = .cmd) (hs : s.Sized) (hb : s.busy = false) :
    ∃ t, exec i s = .next t := by
  cases i with
  | derive =>
    by_cases hl : s.inLen = 8
    · exact ⟨_, exec_derive hs hb hl⟩
    · exact ⟨_, exec_derive_bad hb hl⟩
  | encode | decode => exact ⟨_, State.whenIdle_idle _ hb⟩
  | _ => cases hi

/-! ### Turns -/

/-- A turn that runs an instruction: the micro-operation at `PHASE`, or a command while `BUSY = 0`, with at most HOST's
move taken from the list. -/
theorem State.turn_run {s u : State} {i : Instr} (h : s.turn = .run i u) :
    (∃ l, u = { s with host := l }) ∧ ((u.running = true ∧ i.format = .uop ∧ u.phase = i.code)
      ∨ (u.busy = false ∧ i.format = .cmd)) := by
  unfold State.turn at h
  split at h
  · obtain ⟨rfl, hseq⟩ := State.seqTurn_run h; exact ⟨⟨u.host, rfl⟩, .inl hseq⟩
  · obtain ⟨rfl, hseq⟩ := State.seqTurn_run h; exact ⟨⟨_, rfl⟩, .inl hseq⟩
  · split at h
    · cases h
    · obtain ⟨rfl, hseq⟩ := State.seqTurn_run h; exact ⟨⟨u.host, rfl⟩, .inl hseq⟩
  · cases h
  · obtain ⟨rfl, hb, -, hi, -⟩ := State.cmdTurn_run h; exact ⟨⟨_, rfl⟩, .inr ⟨hb, hi⟩⟩
  · split at h <;> cases h
  all_goals cases h

section
variable {s : State} {f : Fault}

theorem State.hostReadReg_ne_fault {no : Nat} : s.hostReadReg no ≠ .fault f := by
  unfold State.hostReadReg
  split
  · nofun
  · split <;> nofun

theorem State.hostReadBuf_ne_fault {sp : Space} {off n : Nat} : s.hostReadBuf sp off n ≠ .fault f := by
  unfold State.hostReadBuf
  split_ifs <;> nofun

theorem State.hostWriteBuf_ne_fault {sp : Space} {off : Nat} {bs : List Byte} :
    s.hostWriteBuf sp off bs ≠ .fault f := by
  unfold State.hostWriteBuf
  split_ifs <;> nofun

theorem writeLen_ne_fault {cap v : Nat} : writeLen cap v s ≠ .fault f := by
  unfold writeLen
  split_ifs <;> nofun

theorem State.writeRegIdle_ne_fault {no v : Nat} : s.writeRegIdle no v ≠ .fault f := by
  unfold State.writeRegIdle
  split
  · exact writeLen_ne_fault
  · exact writeLen_ne_fault
  all_goals nofun

theorem State.seqTurn_ne_fault : s.seqTurn ≠ .took (.fault f) := by
  unfold State.seqTurn
  split
  · split <;> nofun
  · nofun

theorem State.cmdTurn_ne_fault {v : Nat} : s.cmdTurn v ≠ .took (.fault f) := by
  unfold State.cmdTurn
  split_ifs
  · nofun
  · split <;> nofun
  · nofun

/-- A turn that runs no instruction answers a state or a refusal. -/
theorem State.turn_ne_fault : s.turn ≠ .took (.fault f) := by
  intro h
  unfold State.turn at h
  split at h
  · exact State.seqTurn_ne_fault h
  · exact State.seqTurn_ne_fault h
  · split at h
    · exact State.hostReadReg_ne_fault (Turn.took.inj h)
    · exact State.seqTurn_ne_fault h
  · cases h
  · exact State.cmdTurn_ne_fault h
  · split at h
    · cases h
    · exact State.writeRegIdle_ne_fault (Turn.took.inj h)
  · exact State.hostReadReg_ne_fault (Turn.took.inj h)
  · exact State.hostWriteBuf_ne_fault (Turn.took.inj h)
  · exact State.hostReadBuf_ne_fault (Turn.took.inj h)
  · exact State.hostReadBuf_ne_fault (Turn.took.inj h)

end

/-- The instruction whose turn it is goes on. -/
theorem State.Inv.turn_goes_on {s u : State} {i : Instr} (hs : s.Inv) (h : s.turn = .run i u) :
    ∃ t, exec i u = .next t := by
  obtain ⟨⟨l, rfl⟩, ⟨hr, hi, hp⟩ | ⟨hb, hi⟩⟩ := State.turn_run h
  · obtain ⟨hm, hst, -⟩ := State.Placed.running (s := { s with host := l }) hs.placed hr
    exact exec_uop_goes_on hi (hs.fits.withHost l).sized (hs.underway.withHost l) hst hp hm
  · exact exec_cmd_goes_on hi (hs.fits.withHost l).sized hb

/-- Settles O11: an instruction whose turn it is goes on (`State.Inv.turn_goes_on`), and no other turn can fault. -/
theorem noStepFaults : Obligations.NoStepFaults := by
  intro s f hs h
  unfold step at h
  split at h
  · obtain ⟨t, ht⟩ := hs.turn_goes_on ‹_›
    rw [ht] at h
    cases h
  · subst h
    exact State.turn_ne_fault ‹_›

end Sys2Proof.Machine
end

section
/-! SUPPORT. The encodings (30_encoding.md R94 to R100): the opcode map in both directions, what a write to `CMD` executes,
and the lengths of a container and of what it decodes to. -/

namespace Sys2Proof.Machine

/-! ### The opcode map -/

/-- Every instruction's byte decodes in the instruction's own format. -/
theorem Instr.codeRoundTrip : ∀ i : Instr, Laws.CodeRoundTrip.Statement i
  | .derive => Laws.CodeRoundTrip.derive
  | .encode => Laws.CodeRoundTrip.encode
  | .decode => Laws.CodeRoundTrip.decode
  | .kdfRun => Laws.CodeRoundTrip.kdfRun
  | .pbkdf2F => Laws.CodeRoundTrip.pbkdf2F
  | .hmac => Laws.CodeRoundTrip.hmac
  | .sha256Hash => Laws.CodeRoundTrip.sha256Hash
  | .sha256Compress => Laws.CodeRoundTrip.sha256Compress
  | .kdfSplit => Laws.CodeRoundTrip.kdfSplit
  | .aesKeyexp => Laws.CodeRoundTrip.aesKeyexp
  | .aesEncblk => Laws.CodeRoundTrip.aesEncblk
  | .aesDecblk => Laws.CodeRoundTrip.aesDecblk
  | .cbcInit => Laws.CodeRoundTrip.cbcInit
  | .cbcEncstep => Laws.CodeRoundTrip.cbcEncstep
  | .cbcDecstep => Laws.CodeRoundTrip.cbcDecstep
  | .padApply => Laws.CodeRoundTrip.padApply
  | .padInspect => Laws.CodeRoundTrip.padInspect
  | .rngSalt => Laws.CodeRoundTrip.rngSalt
  | .ctrFormat => Laws.CodeRoundTrip.ctrFormat
  | .ctrParse => Laws.CodeRoundTrip.ctrParse

theorem decode_encode (i : Instr) (rest : List Byte) :
    Sys2Proof.decode i.format (Sys2Proof.encode i ++ rest) = .ok (i, rest) :=
  (Instr.codeRoundTrip i).1 rest

/-- The table words of a list of instructions are read back as that list. -/
theorem map_decodeTableWord (l : List Instr) :
    (l.map fun i => i.code.toNat).map (decodeTableWord 8) = l.map some := by
  rw [List.map_map]
  exact List.map_congr_left fun i _ => (Instr.codeRoundTrip i).2.1

theorem ok_of_map_pair {x : Except Reject Instr} {i : Instr} {bs rest : List Byte}
    (h : x.map (fun j => (j, bs)) = .ok (i, rest)) : x = .ok i ∧ rest = bs := by
  cases x with
  | error e => cases h
  | ok j => cases h; exact ⟨rfl, rfl⟩

/-- A decoder reads the first byte only and leaves the others. -/
theorem decode_cons_ok {f : Format} {b : Byte} {bs rest : List Byte} {i : Instr}
    (h : Sys2Proof.decode f (b :: bs) = .ok (i, rest)) : Sys2Proof.decode f [b] = .ok (i, []) ∧ rest = bs := by
  cases f with
  | cmd =>
    obtain ⟨hb, rfl⟩ := ok_of_map_pair (x := decodeCmd b) h
    exact ⟨by rw [Sys2Proof.decode, hb]; rfl, rfl⟩
  | uop =>
    obtain ⟨hb, rfl⟩ := ok_of_map_pair (x := decodeUop b) h
    exact ⟨by rw [Sys2Proof.decode, hb]; rfl, rfl⟩

/-- In either format, a byte that decodes is the code of an instruction of that format. -/
theorem decode_ok {f : Format} {b : Byte} {i : Instr} {rest : List Byte} (h : Sys2Proof.decode f [b] = .ok (i, rest)) :
    i.format = f ∧ b = i.code := by
  cases f with
  | cmd => exact decode_cmd_ok h
  | uop => exact decode_uop_ok h

/-- Settles O2: a list that decodes starts with the instruction's code (`decode_ok`), and every code decodes to its
instruction (`decode_encode`). -/
theorem onlyEncodingsDecode : Obligations.OnlyEncodingsDecode := by
  intro f bs i rest
  constructor
  · intro h
    cases bs with
    | nil => cases h
    | cons b bs =>
      obtain ⟨hb, rfl⟩ := decode_cons_ok h
      obtain ⟨hf, rfl⟩ := decode_ok hb
      exact ⟨hf, rfl⟩
  · rintro ⟨rfl, rfl⟩
    exact decode_encode i rest

/-- Settles O1: the words of R95 and R96 are the codes of these instructions. -/
theorem opcodeMapDecodes : Obligations.OpcodeMapDecodes :=
  ⟨map_decodeTableWord [.derive, .encode, .decode],
   map_decodeTableWord [.kdfRun, .pbkdf2F, .hmac, .sha256Hash, .sha256Compress, .kdfSplit],
   map_decodeTableWord [.aesKeyexp, .aesEncblk, .aesDecblk],
   map_decodeTableWord [.cbcInit, .cbcEncstep, .cbcDecstep],
   map_decodeTableWord [.padApply, .padInspect],
   map_decodeTableWord [.rngSalt, .ctrFormat, .ctrParse]⟩

/-! ### Writes to `CMD` -/

section
variable {s : State} {v : Nat}

/-- HOST's write to register `0x00` is a command turn. -/
theorem State.turn_writeCmd {rest : List HostMove} (hh : s.host = .writeReg 0x00 v :: rest) :
    s.turn = { s with host := rest }.cmdTurn v := by
  simp [State.turn, hh]

theorem State.cmdTurn_command {i : Instr} (hb : s.busy = false) (hv : v < 256)
    (hd : Sys2Proof.decode .cmd [BitVec.ofNat 8 v] = .ok (i, [])) : s.cmdTurn v = .run i s := by
  simp [State.cmdTurn, hb, hv, hd]

/-- The codes of the commands (R95). -/
theorem Instr.code_cmd {i : Instr} (hi : i.format = .cmd) : i.code.toNat ∈ [1, 2, 3] := by
  revert hi; cases i <;> decide

/-- No other value decodes: a value below 256 that does is the code of a command. -/
theorem State.cmdTurn_reserved (hb : s.busy = false) (hv : v ∉ [1, 2, 3]) :
    s.cmdTurn v = .took (.refused .reservedCommand) := by
  rw [State.cmdTurn, if_neg (by simp [hb])]
  split
  case isFalse => rfl
  case isTrue hlt =>
    split
    case h_2 => rfl
    case h_1 i _ hd =>
      obtain ⟨hi, hcode⟩ := decode_cmd_ok hd
      have hval : i.code.toNat = v := by rw [← hcode, BitVec.toNat_ofNat, Nat.mod_eq_of_lt hlt]
      exact absurd (hval ▸ Instr.code_cmd hi) hv

end

/-- Settles O4: the turn is the command's. -/
theorem stepRunsCommand : Obligations.StepRunsCommand := by
  intro s i v rest hb hh hv hd
  have hrun : s.turn = .run i { s with host := rest } :=
    (State.turn_writeCmd hh).trans (State.cmdTurn_command (s := { s with host := rest }) hb hv hd)
  rw [step, hrun]

/-- Settles O5: the turn is a refusal (`State.cmdTurn_reserved`). -/
theorem reservedCommandRefused : Obligations.ReservedCommandRefused := by
  intro s v rest hb hh hv
  have htook : s.turn = .took (.refused .reservedCommand) :=
    (State.turn_writeCmd hh).trans (State.cmdTurn_reserved (s := { s with host := rest }) hb hv)
  rw [step, htook]

/-! ### Lengths -/

theorem length_cbcEncBlocks (rk : Vec (Bytes 16) 15) (chain : Bytes 16) (q : Nat) (m : List Byte) :
    (cbcEncBlocks rk chain q m).length = 16 * q := by
  induction q generalizing chain m with
  | zero => rfl
  | succ q ih =>
    simp only [cbcEncBlocks, List.length_append, Bytes.length_val, ih]
    omega

theorem length_cbcDecBlocks (rk : Vec (Bytes 16) 15) (chain : Bytes 16) (q : Nat) (c : List Byte) :
    (cbcDecBlocks rk chain q c).length = 16 * q := by
  induction q generalizing chain c with
  | zero => rfl
  | succ q ih =>
    simp only [cbcDecBlocks, List.length_append, Bytes.length_val, ih]
    omega

theorem length_cbcEnc (key : Bytes 32) (iv : Bytes 16) (m : List Byte) :
    (cbcEnc key iv m).length = 16 * (m.length / 16) :=
  length_cbcEncBlocks _ _ _ _

theorem length_cbcDec (key : Bytes 32) (iv : Bytes 16) (c : List Byte) :
    (cbcDec key iv c).length = 16 * (c.length / 16) :=
  length_cbcDecBlocks _ _ _ _

/-- A container is the header and the ciphertext of the padded plaintext. -/
theorem length_encodeFn (cfg : Cfg) (pw text : List Byte) (salt : Bytes 8) :
    (encodeFn cfg pw text salt).length = 16 + 16 * paddedBlocks text.length := by
  simp only [encodeFn, List.length_append, Bytes.length_val, length_cbcEnc, length_padApply]
  omega

/-- Valid padding is at least one byte and lies within the data (R222). -/
theorem padCheck_bounds {d : List Byte} {n : Nat} (h : padCheck d = some n) : 1 ≤ n ∧ n ≤ d.length := by
  simp only [padCheck] at h
  split_ifs at h with hc
  obtain ⟨hpos, -, hlen, -⟩ := hc
  cases h
  exact ⟨hpos, hlen⟩

/-- The message is shorter than the padded data it is read from. -/
theorem length_padInspect {d m : List Byte} (h : padInspect d = some m) : m.length < d.length := by
  obtain ⟨n, hn, rfl⟩ := Option.map_eq_some_iff.mp h
  obtain ⟨hpos, hlen⟩ := padCheck_bounds hn
  rw [List.length_take]
  omega

/-- What DECODE gives is the message of the decrypted container body. -/
theorem decodeFn_ok {cfg : Cfg} {pw c m : List Byte} (h : decodeFn cfg pw c = .ok m) :
    ∃ key iv, padInspect (cbcDec key iv (c.drop 16)) = some m := by
  simp only [decodeFn] at h
  split_ifs at h
  split at h
  · cases h
  · cases h
    exact ⟨_, _, ‹_›⟩

/-- Settles O58: a container is the header and the padded blocks; what decodes is the body without at least one byte of
padding. -/
theorem outputLengths : Obligations.OutputLengths := by
  intro cfg pw text salt
  refine ⟨length_encodeFn cfg pw text salt, fun m hm => ?_⟩
  obtain ⟨key, iv, hpad⟩ := decodeFn_ok hm
  have hlt := length_padInspect hpad
  rw [length_cbcDec, List.length_drop] at hlt
  omega

end Sys2Proof.Machine
end

section
/-! SUPPORT. The statements of family KDF (40_kdf.md): the message schedule and the padded message, the micro-operations
from SHA256.COMPRESS to KDF.RUN, long passwords, and what follows KDF.SPLIT. -/

namespace Sys2Proof

/-! ### Bytes of a word and of a sequence -/

/-- The value of four bytes, most significant first (R13): they take up disjoint bits. -/
theorem toNat_wordBE (b0 b1 b2 b3 : Byte) :
    (wordBE b0 b1 b2 b3).toNat = b0.toNat * 2 ^ 24 + b1.toNat * 2 ^ 16 + b2.toNat * 2 ^ 8 + b3.toNat := by
  have h0 := b0.isLt
  have h1 := b1.isLt
  have h2 := b2.isLt
  have h3 := b3.isLt
  have hdisjoint {x y n : Nat} (h : y < 2 ^ n) : x <<< n ||| y = x * 2 ^ n + y := by
    rw [← Nat.shiftLeft_add_eq_or_of_lt h, Nat.shiftLeft_eq]
  have hfits {x n : Nat} (h : x * 2 ^ n < 2 ^ 32) : x <<< n % 2 ^ 32 = x <<< n := by
    rw [Nat.shiftLeft_eq, Nat.mod_eq_of_lt h]
  simp only [wordBE, BitVec.toNat_or, BitVec.toNat_shiftLeft, BitVec.toNat_setWidth_of_le (show 8 ≤ 32 by decide),
    Nat.or_assoc]
  rw [hfits (by omega), hfits (by omega), hfits (by omega), hdisjoint (x := b2.toNat) (by omega),
    hdisjoint (x := b1.toNat) (by omega), hdisjoint (x := b0.toNat) (by omega)]
  omega

/-- The slice at the front holds the first bytes. -/
theorem Bytes.val_slice_zero {m n : Nat} (v : Bytes m) (h : n ≤ m) : (v.slice 0 n).val = v.val.take n := by
  apply List.ext_getElem (by simp [h])
  intro k hk _
  have hv : k < v.val.length := by
    simp only [Bytes.length_val] at hk ⊢
    omega
  simp only [Bytes.slice, Vec.ofFn, Bytes.byte, List.getElem_map, List.getElem_range, List.getElem_take, Nat.zero_add,
    List.getD_eq_getElem v.val 0 hv]

end Sys2Proof

namespace Sys2Proof.Machine

/-! ### The message schedule (R135) -/

/-- A word of the schedule depends on the words before it only. -/
theorem scheduleWord_congr {w w' : List Word} {t : Nat} (ht : 16 ≤ t) (h : ∀ k < t, w.getD k 0 = w'.getD k 0) :
    scheduleWord w t = scheduleWord w' t := by
  simp only [scheduleWord, h (t - 2) (by omega), h (t - 7) (by omega), h (t - 15) (by omega), h (t - 16) (by omega)]

/-- Extending the schedule keeps the words there are. -/
theorem getD_extendSchedule_old (n : Nat) (w : List Word) {t : Nat} (ht : t < w.length) :
    (extendSchedule n w).getD t 0 = w.getD t 0 := by
  induction n generalizing w with
  | zero => rfl
  | succ n ih =>
    have hlen : t < (w ++ [scheduleWord w w.length]).length := by rw [List.length_append]; omega
    rw [extendSchedule, ih _ hlen, List.getD_append _ _ _ _ ht]

/-- Each word that extends the schedule meets the recurrence in the whole of it. -/
theorem getD_extendSchedule_new (n : Nat) (w : List Word) {t : Nat} (hw : 16 ≤ w.length) (ht : w.length ≤ t)
    (hn : t < w.length + n) : (extendSchedule n w).getD t 0 = scheduleWord (extendSchedule n w) t := by
  induction n generalizing w with
  | zero => omega
  | succ n ih =>
    have hlen : (w ++ [scheduleWord w w.length]).length = w.length + 1 := List.length_append
    rw [extendSchedule]
    obtain rfl | hlt := Nat.eq_or_lt_of_le ht
    · have hold : ∀ k < w.length, w.getD k 0 = (extendSchedule n (w ++ [scheduleWord w w.length])).getD k 0 :=
        fun k hk => by rw [getD_extendSchedule_old n _ (by omega), List.getD_append _ _ _ _ hk]
      rw [getD_extendSchedule_old n _ (by omega), ← scheduleWord_congr hw hold]
      simp
    · exact ih _ (by omega) (by omega) (by omega)

theorem length_blockWords (blk : Bytes 64) : (blockWords blk).length = 16 := by simp [blockWords]

/-- Words 0 to 15 of the schedule are the words of the block. -/
theorem schedule_at_block (blk : Bytes 64) {t : Nat} (ht : t < 16) : (schedule blk).at 0 t
    = wordBE (blk.byte (4 * t)) (blk.byte (4 * t + 1)) (blk.byte (4 * t + 2)) (blk.byte (4 * t + 3)) := by
  refine (getD_extendSchedule_old 48 _ (by rwa [length_blockWords])).trans ?_
  simp [blockWords, ht]

/-- Settles O25: the first 16 words are the block's, and each later one extends the schedule by the recurrence. -/
theorem scheduleRecurrence : Obligations.ScheduleRecurrence := by
  refine fun blk => ⟨fun t ht => ?_, fun t h16 h64 => ?_⟩
  · rw [schedule_at_block blk ht, toNat_wordBE]
  · have hlen := length_blockWords blk
    exact getD_extendSchedule_new 48 (blockWords blk) (by omega) (by omega) (by omega)

/-! ### The padded message (R136) -/

/-- Settles O26: the zero bytes fill the last block up to the 8 bytes of the length. -/
theorem shaPaddingShape : Obligations.ShaPaddingShape := by
  intro m
  have hlen : (shaPadded m).length = m.length + 9 + (55 + 64 - m.length % 64) % 64 := by
    simp only [shaPadded, shaPad, List.length_append, List.length_cons, List.length_replicate, Bytes.length_val]
    omega
  refine ⟨(55 + 64 - m.length % 64) % 64, ?_, by omega, by omega, by omega, by omega⟩
  simp [shaPadded, shaPad]

/-! ### The hash unit (R135, R137) -/

/-- Settles O24: the registers after the compression, all at once (`ShaRegs.compress_eq`). -/
theorem sha256CompressResult : Obligations.Sha256CompressResult := by
  refine fun s => ⟨s.kdf.sha.compress, rfl, ?_⟩
  rw [ShaRegs.compress_eq]
  exact ⟨rfl, rfl, rfl, rfl, rfl, rfl⟩

/-- Compressing blocks leaves the message operand alone. -/
theorem ShaRegs.msg_foldl_compress (r : ShaRegs) (p : List Byte) (l : List Nat) :
    (l.foldl (fun r b => { r with blk := msgBlock p b }.compress) r).msg = r.msg := by
  induction l generalizing r with
  | nil => rfl
  | cons b l ih => rw [List.foldl_cons, ih, ShaRegs.compress_eq]

theorem ShaRegs.msg_hash (r : ShaRegs) : r.hash.msg = r.msg := ShaRegs.msg_foldl_compress _ _ _

/-- Settles O27: the hash unit computes `sha256` (`ShaRegs.digest_hash`) and no compression writes the message
operand. -/
theorem sha256HashResult : Obligations.Sha256HashResult :=
  fun s => ⟨s.kdf.sha.hash, rfl, s.kdf.sha.digest_hash, s.kdf.sha.msg_hash⟩

/-! ### Micro-operations under the password (R138 to R140) -/

/-- A password length within the capacity is all that the password operand needs. -/
theorem State.withPassword_of_le {s : State} (h : s.pwLen ≤ s.caps.pwMax) (k : List Byte → Out) :
    s.withPassword k = k s.password :=
  State.reading_fits s k (by simpa [Caps.cap] using h)

theorem KdfRegs.k0_hmac (r : KdfRegs) (key : List Byte) : (r.hmac key).k0 = hmacKey key := by
  by_cases hk : 64 < key.length <;> simp [KdfRegs.hmac, hmacKey, hk, ShaRegs.digest_hashOf]

/-- Settles O28: the engine computes `hmacSha256` (`KdfRegs.digest_hmac`) under the key block it leaves in `HMAC_K0`. -/
theorem hmacResult : Obligations.HmacResult := by
  intro s hpw
  refine ⟨s.kdf.hmac s.password, ?_, s.kdf.digest_hmac _, s.kdf.k0_hmac _, rfl⟩
  show execHmac s = _
  rw [execHmac, State.withPassword_of_le hpw, State.goto, Instr.code]

/-- The loop of R139, entered behind the current turn, counts its turns in `KDF_J`. -/
theorem KdfRegs.j_iterate (key : List Byte) (n : Nat) (r : KdfRegs) :
    (KdfRegs.iterate key n (r.j + 1) r).j = r.j + BitVec.ofNat 32 n := by
  induction n generalizing r with
  | zero => simp [KdfRegs.iterate]
  | succ n ih =>
    have hj : (r.prf key (r.j + 1) r.u.val).j = r.j + 1 := rfl
    have h := ih { r.prf key (r.j + 1) r.u.val with
      t := (r.prf key (r.j + 1) r.u.val).t.xor (r.prf key (r.j + 1) r.u.val).u }
    rw [hj] at h
    rw [KdfRegs.iterate, h, BitVec.ofNat_add, BitVec.add_assoc, BitVec.add_comm 1]
    rfl

/-- `KDF_J` ends at the iteration count. -/
theorem KdfRegs.j_blockF (cfg : Cfg) (key : List Byte) (salt : Bytes 8) (r : KdfRegs) :
    (r.blockF cfg key salt).j = 1 + BitVec.ofNat 32 (cfg.iter - 1) :=
  KdfRegs.j_iterate key (cfg.iter - 1) { r.prf key 1 (salt.val ++ (be32 r.i).val) with
    t := (r.prf key 1 (salt.val ++ (be32 r.i).val)).u }

/-- Settles O29, with the 10000 iterations of this hardware's CFG. -/
theorem pbkdf2FResult : Obligations.Pbkdf2FResult := by
  intro s hpw
  obtain ⟨ht, hu, hi⟩ := s.kdf.blockF_eq Config.cfg s.password s.salt
  refine ⟨s.kdf.blockF Config.cfg s.password s.salt, ?_, ht, hu, hi, s.kdf.j_blockF Config.cfg s.password s.salt⟩
  show execPbkdf2F s = _
  rw [execPbkdf2F, State.withPassword_of_le hpw, State.goto, Instr.code]

theorem KdfRegs.i_run (cfg : Cfg) (key : List Byte) (salt : Bytes 8) (r : KdfRegs) : (r.run cfg key salt).1.i = 2 :=
  (KdfRegs.blockF_eq cfg key salt _).2.2

/-- Settles O30: KDF.RUN computes the key material (`KdfRegs.run_eq`), whose two parts are those of R140. -/
theorem kdfRunResult : Obligations.KdfRunResult := by
  intro s hpw
  refine ⟨(s.kdf.run Config.cfg s.password s.salt).1, ?_, KdfRegs.i_run _ _ _ _, ?_⟩
  · rw [← KdfRegs.run_eq Config.cfg s.password s.salt s.kdf]
    show execKdfRun s = _
    rw [execKdfRun, State.withPassword_of_le hpw]
    simp only [State.goto, Instr.code]
  · exact congrArg (_ ++ ·) (Bytes.val_slice_zero _ (by decide))

/-! ### Long passwords (R143) -/

/-- A long key and its hash have the same key block. -/
theorem hmacKey_sha256 {p : List Byte} (h : 64 < p.length) : hmacKey (sha256 p).val = hmacKey p := by
  simp [hmacKey, h]

section
variable {key key' : List Byte} (h : hmacKey key = hmacKey key') (x : List Byte)
include h

/-- HMAC sees the key through its key block only. -/
theorem hmacSha256_congr : hmacSha256 key x = hmacSha256 key' x := by
  simp only [hmacSha256, h]

theorem prfChain_congr (n : Nat) : prfChain key x n = prfChain key' x n := by
  induction n with
  | zero => exact hmacSha256_congr h x
  | succ n ih => rw [prfChain, prfChain, ih, hmacSha256_congr h]

theorem prfXor_congr (n : Nat) : prfXor key x n = prfXor key' x n := by
  induction n with
  | zero => exact prfChain_congr h x 0
  | succ n ih => rw [prfXor, prfXor, ih, prfChain_congr h]

/-- Keys with one key block derive the same key material. -/
theorem deriveKey_congr (cfg : Cfg) (salt : Bytes 8) : deriveKey cfg key salt = deriveKey cfg key' salt := by
  simp only [deriveKey, pbkdf2F, prfXor_congr h]

end

/-- Settles O31: HMAC takes a long password by the key block of its hash. -/
theorem longPasswordCollides : Obligations.LongPasswordCollides :=
  fun cfg _ salt hp => deriveKey_congr (hmacKey_sha256 hp).symm cfg salt

/-! ### What follows KDF.SPLIT (R261, R263, R264) -/

/-- The ciphertext-length test of DECODE passes at the positive multiples of 16. -/
theorem State.badCipherLen_eq_false {s : State} :
    s.badCipherLen = false ↔ s.inLen - 16 ≠ 0 ∧ (s.inLen - 16) % 16 = 0 := by
  simp [State.badCipherLen, State.cipherLen]

/-- An error entry changes `PHASE`, `STATUS`, `OUT_LEN` and what becomes unspecified. -/
theorem State.sameButPrivate_raise (s : State) (e : Err) :
    { s with phase := phaseDoneErr, status := (s.raise e).status, outLen := 0 }.SameButPrivate (s.raise e) := rfl

/-- Settles O32: KDF.SPLIT goes on to AES.KEYEXP (`exec_kdfSplit_codec`) unless the length test of DECODE fails
(`exec_kdfSplit_bad`). -/
theorem kdfSplitInCodec : Obligations.KdfSplitInCodec := by
  refine fun s => ⟨fun hc => exec_kdfSplit_codec (.inl hc),
    fun hc hl => exec_kdfSplit_codec (.inr ⟨hc, State.badCipherLen_eq_false.mpr hl⟩), fun hc hl => ?_⟩
  have hbad : s.badCipherLen = true := by rwa [← State.badCipherLen_eq_false, Bool.not_eq_false] at hl
  exact ⟨_, exec_kdfSplit_bad hc hbad, s.sameButPrivate_raise _, s.busy_raise _, s.done_raise _, s.err_raise _⟩

/-- The state in which DERIVE ends: `DKM` stands in `OUT`. -/
def State.derivedOut (s : State) : State := State.complete { s.store .out 0 s.dkm.val with outLen := 48 }

theorem exec_kdfSplit_derivedOut {s : State} (hc : s.curCmd = Instr.derive.code) (hmax : 48 ≤ s.caps.outMax) :
    exec .kdfSplit s = .next s.derivedOut := by
  show execKdfSplit s = _
  rw [execKdfSplit, if_pos hc, State.deriveEnd, State.writing_fits _ _ (by simpa [Caps.cap] using hmax)]
  rfl

theorem State.sameButPrivate_derivedOut (s : State) :
    { s with phase := phaseDoneOk, status := s.derivedOut.status, outLen := 48 }.SameButPrivate s.derivedOut := rfl

/-- The end of DERIVE keeps what is below `OUT_LEN` as the write of `DKM` left it. -/
theorem State.readByte_derivedOut (s : State) {sp : Space} {a : Nat} (h : sp = .out → a < 48) :
    s.derivedOut.readByte sp a = (s.store .out 0 s.dkm.val).readByte sp a := by
  refine (State.readByte_complete _ h).trans ?_
  cases sp <;> rfl

theorem State.readByte_derivedOut_dkm (s : State) {a : Nat} (h : a < 48) :
    s.derivedOut.readByte .out a = s.dkm.byte a := by
  have hlen : a < s.dkm.val.length := by simpa using h
  have hstore := s.readByte_store_inside .out 0 s.dkm.val hlen
  rw [Nat.zero_add] at hstore
  rw [s.readByte_derivedOut fun _ => h, hstore]
  simp [Bytes.byte, h]

theorem State.keepsBytesBut_derivedOut (s : State) : s.KeepsBytesBut s.derivedOut 0 48 := by
  intro sp a hout hend
  have hsp : sp ≠ .out := fun ho => by
    obtain hrun | hlt := hend ho
    · simp [State.derivedOut, State.running] at hrun
    · exact hout ⟨ho, Nat.zero_le a, by rw [Nat.zero_add]; exact hlt⟩
  rw [s.readByte_derivedOut fun ho => absurd ho hsp, State.readByte_store_outside _ _ (.inl hsp)]

/-- Settles O33: the views of `DKM` are its bytes 0 to 31 and 32 to 47, and these stand in `OUT`. -/
theorem kdfSplitInDerive : Obligations.KdfSplitInDerive := by
  intro s hc hmax
  refine ⟨s.derivedOut, exec_kdfSplit_derivedOut hc hmax, s.sameButPrivate_derivedOut, State.busy_complete _,
    State.done_complete _, State.err_complete _, fun k hk => ?_, fun k hk => ?_, s.keepsBytesBut_derivedOut⟩
  · rw [s.readByte_derivedOut_dkm (by omega), keyOf, Bytes.byte_slice _ _ _ hk, Nat.zero_add]
  · rw [s.readByte_derivedOut_dkm (by omega), ivOf, Bytes.byte_slice _ _ _ hk]

end Sys2Proof.Machine
end

section
/-! SUPPORT. The statements of family AES (41_aes.md): the micro-operations AES.KEYEXP, AES.ENCBLK and AES.DECBLK, the
key schedule word by word, and the block operations as inverses of each other: each layer of R175 to R178 is undone by
its inverse, so decryption walks back through the states of encryption. -/

namespace Sys2Proof.Machine

/-! ### The micro-operations (R179 to R181) -/

/-- Settles O34: `KEY` is the slice `DKM[0..31]`, and CBC.INIT has the code 0x30. -/
theorem aesKeyexpResult : Obligations.AesKeyexpResult := fun _ => rfl

/-- Settles O36: the unit computes `aesEncBlk` (`AesRegs.encrypt_eq`). -/
theorem aesEncblkResult : Obligations.AesEncblkResult := by
  intro s
  show execAesEncblk s = _
  rw [execAesEncblk, AesRegs.encrypt_eq, State.goto, Instr.code]

/-- Settles O37: the unit computes `aesDecBlk` (`AesRegs.decrypt_eq`). -/
theorem aesDecblkResult : Obligations.AesDecblkResult := by
  intro s
  show execAesDecblk s = _
  rw [execAesDecblk, AesRegs.decrypt_eq, State.goto, Instr.code]

/-! ### The key schedule (R179) -/

theorem getD_of_prefix {α : Type} {l l' : List α} (h : l <+: l') (d : α) {k : Nat} (hk : k < l.length) :
    l'.getD k d = l.getD k d := by
  obtain ⟨t, rfl⟩ := h
  exact List.getD_append _ _ _ _ hk

theorem prefix_extendKey (n : Nat) (w : List (Bytes 4)) : w <+: extendKey n w := by
  induction n generalizing w with
  | zero => exact List.prefix_rfl
  | succ n ih => exact (List.prefix_append w _).trans (ih _)

/-- A word of the schedule depends on the words before it only. -/
theorem keyWord_of_prefix {w w' : List (Bytes 4)} (h : w <+: w') (hw : 0 < w.length) :
    keyWord w' w.length = keyWord w w.length := by
  simp only [keyWord, getD_of_prefix h _ (show w.length - 1 < w.length by omega),
    getD_of_prefix h _ (show w.length - 8 < w.length by omega)]

/-- Each word that extends the schedule meets the recurrence in the whole of it. -/
theorem getD_extendKey (n : Nat) (w : List (Bytes 4)) {i : Nat} (hw : 0 < w.length) (hi : w.length ≤ i)
    (hn : i < w.length + n) : (extendKey n w).getD i (Bytes.zero 4) = keyWord (extendKey n w) i := by
  induction n generalizing w with
  | zero => omega
  | succ n ih =>
    have hlen : (w ++ [keyWord w w.length]).length = w.length + 1 := List.length_append
    obtain rfl | hlt := Nat.eq_or_lt_of_le hi
    · rw [keyWord_of_prefix (prefix_extendKey (n + 1) w) hw, extendKey,
        getD_of_prefix (prefix_extendKey n _) _ (by omega)]
      simp
    · exact ih _ (by omega) (by omega) (by omega)

theorem keyWords_old (key : Bytes 32) {i : Nat} (hi : i < 8) :
    (keyWords key).getD i (Bytes.zero 4) = key.slice (4 * i) 4 := by
  rw [keyWords, getD_of_prefix (prefix_extendKey _ _) _ (by simpa using hi)]
  simp [hi]

theorem keyWords_new (key : Bytes 32) {i : Nat} (h8 : 8 ≤ i) (h60 : i < 60) :
    (keyWords key).getD i (Bytes.zero 4) = keyWord (keyWords key) i :=
  getD_extendKey 52 _ (by simp) (by simpa using h8) (by simpa using h60)

/-- Word `i` of the schedule stands in round key `i / 4`. -/
theorem aesKeyExp_word (key : Bytes 32) {i : Nat} (hi : i < 60) :
    ((aesKeyExp key).at (Bytes.zero 16) (i / 4)).slice (4 * (i % 4)) 4 = (keyWords key).getD i (Bytes.zero 4) := by
  refine Bytes.ext_byte fun k hk => ?_
  have hword : 4 * (i / 4) + (4 * (i % 4) + k) / 4 = i := by omega
  have hbyte : (4 * (i % 4) + k) % 4 = k := by omega
  rw [Bytes.byte_slice _ _ _ hk, aesKeyExp, Vec.at_ofFn _ _ (by omega), roundKeyOf, Bytes.byte_ofFn _ (by omega), hword,
    hbyte]

theorem byte_addRcon (t : Bytes 4) (c : Nat) {k : Nat} (hk : k < 4) :
    (addRcon t c).byte k = t.byte k ^^^ (if k = 0 then xtimePow (c - 1) 0x01 else 0) := by
  rw [addRcon, Bytes.byte_ofFn _ hk]
  split_ifs with h0
  · rw [h0]
  · exact BitVec.xor_zero.symm

theorem byte_subWord (t : Bytes 4) {k : Nat} (hk : k < 4) : (subWord t).byte k = sbox (t.byte k) :=
  Bytes.byte_ofFn _ hk

theorem byte_rotWord (t : Bytes 4) {k : Nat} (hk : k < 4) : (rotWord t).byte k = t.byte ((k + 1) % 4) :=
  Bytes.byte_ofFn _ hk

/-- Settles O35: the round keys are the words (`aesKeyExp_word`), the first 8 of them the key's (`keyWords_old`) and
each later one a `keyWord` (`keyWords_new`), of which the index picks the branch. -/
theorem keyScheduleRecurrence : Obligations.KeyScheduleRecurrence := by
  intro key w
  have hword : ∀ i < 60, w i = (keyWords key).getD i (Bytes.zero 4) := fun i hi => aesKeyExp_word key hi
  have hstep : ∀ i, 8 ≤ i → i < 60 → w i = (w (i - 8)).xor
      (if i % 8 = 0 then addRcon (subWord (rotWord (w (i - 1)))) (i / 8)
        else if i % 8 = 4 then subWord (w (i - 1)) else w (i - 1)) := by
    intro i h8 h60
    rw [hword i h60, hword (i - 8) (by omega), hword (i - 1) (by omega), keyWords_new key h8 h60, keyWord]
  refine ⟨fun i hi => ?_, fun i h8 h60 h0 k hk => ?_, fun i h8 h60 h4 k hk => ?_, fun i h8 h60 h => ?_⟩
  · rw [hword i (by omega), keyWords_old key hi]
  · rw [hstep i h8 h60, if_pos h0, Bytes.byte_xor _ _ hk, byte_addRcon _ _ hk, byte_subWord _ hk, byte_rotWord _ hk,
      BitVec.xor_assoc]
  · rw [hstep i h8 h60, if_neg (by omega), if_pos h4, Bytes.byte_xor _ _ hk, byte_subWord _ hk]
  · rw [hstep i h8 h60, if_neg (by omega), if_neg (by omega)]

/-! ### The field (R171) -/

theorem lt_0x80_iff_msb (a : Byte) : a < 0x80 ↔ a.msb = false := by
  rw [BitVec.msb_eq_false_iff_two_mul_lt, BitVec.lt_def]
  change a.toNat < 128 ↔ 2 * a.toNat < 256
  omega

theorem xtime_eq (a : Byte) : xtime a = a <<< 1 ^^^ (if a.msb then 0x1b else 0) := by
  unfold xtime
  split_ifs with hlt hmsb hmsb
  · simp [(lt_0x80_iff_msb a).mp hlt] at hmsb
  · exact BitVec.xor_zero.symm
  · rfl
  · exact absurd ((lt_0x80_iff_msb a).mpr (by simpa using hmsb)) hlt

/-- XOR is commutative from behind a first operand too, so that `simp` sorts a sum and equal terms meet. -/
theorem byte_xor_left_comm (a b c : Byte) : a ^^^ (b ^^^ c) = b ^^^ (a ^^^ c) := by
  rw [← BitVec.xor_assoc, BitVec.xor_comm a b, BitVec.xor_assoc]

@[simp] theorem xtime_xor (a b : Byte) : xtime (a ^^^ b) = xtime a ^^^ xtime b := by
  simp only [xtime_eq, BitVec.shiftLeft_xor_distrib, BitVec.msb_xor]
  cases a.msb <;> cases b.msb <;> simp [BitVec.xor_assoc, BitVec.xor_comm, byte_xor_left_comm]

/-! Multiplication by the entries of the two matrices of R177, as R171 lists it. -/

@[simp] theorem gmul_0x01 (a : Byte) : gmul a 0x01#8 = a := BitVec.zero_xor
@[simp] theorem gmul_0x02 (a : Byte) : gmul a 0x02#8 = xtime a := BitVec.zero_xor
@[simp] theorem gmul_0x03 (a : Byte) : gmul a 0x03#8 = a ^^^ xtime a := congrArg (· ^^^ xtime a) BitVec.zero_xor
@[simp] theorem gmul_0x09 (a : Byte) : gmul a 0x09#8 = a ^^^ xtime (xtime (xtime a)) :=
  congrArg (· ^^^ xtime (xtime (xtime a))) BitVec.zero_xor
@[simp] theorem gmul_0x0b (a : Byte) : gmul a 0x0b#8 = a ^^^ xtime a ^^^ xtime (xtime (xtime a)) :=
  congrArg (· ^^^ xtime a ^^^ xtime (xtime (xtime a))) BitVec.zero_xor
@[simp] theorem gmul_0x0d (a : Byte) : gmul a 0x0d#8 = a ^^^ xtime (xtime a) ^^^ xtime (xtime (xtime a)) :=
  congrArg (· ^^^ xtime (xtime a) ^^^ xtime (xtime (xtime a))) BitVec.zero_xor
@[simp] theorem gmul_0x0e (a : Byte) : gmul a 0x0e#8 = xtime a ^^^ xtime (xtime a) ^^^ xtime (xtime (xtime a)) :=
  congrArg (· ^^^ xtime (xtime a) ^^^ xtime (xtime (xtime a))) BitVec.zero_xor

/-! ### The columns (R177) -/

/-- MixColumns, its products collected under `xtime`. The matrix is circulant: row `r` is the first row, started at
byte `r` of the column. -/
theorem mixByte_mixRow (a : Nat → Byte) {r : Nat} (hr : r < 4) : mixByte mixRow a r =
    xtime (a r ^^^ a ((r + 1) % 4)) ^^^ (a ((r + 1) % 4) ^^^ a ((r + 2) % 4) ^^^ a ((r + 3) % 4)) := by
  interval_cases r <;>
  · simp only [mixByte, mixRow, Nat.reduceSub, Nat.reduceAdd, Nat.reduceMod, List.getD_cons_zero,
      List.getD_cons_succ, BitVec.ofNat_eq_ofNat, gmul_0x01, gmul_0x02, gmul_0x03, xtime_xor]
    ac_rfl

/-- InvMixColumns, its products collected under `xtime` in the manner of Horner. -/
theorem mixByte_invMixRow (a : Nat → Byte) {r : Nat} (hr : r < 4) : mixByte invMixRow a r =
    xtime (xtime (xtime (a r ^^^ a ((r + 1) % 4) ^^^ a ((r + 2) % 4) ^^^ a ((r + 3) % 4))
        ^^^ (a r ^^^ a ((r + 2) % 4))) ^^^ (a r ^^^ a ((r + 1) % 4)))
      ^^^ (a ((r + 1) % 4) ^^^ a ((r + 2) % 4) ^^^ a ((r + 3) % 4)) := by
  interval_cases r <;>
  · simp only [mixByte, invMixRow, Nat.reduceSub, Nat.reduceAdd, Nat.reduceMod, List.getD_cons_zero,
      List.getD_cons_succ, BitVec.ofNat_eq_ofNat, gmul_0x09, gmul_0x0b, gmul_0x0d, gmul_0x0e, xtime_xor]
    ac_rfl

/-- The matrix of InvMixColumns is a left inverse of that of MixColumns: all but byte `r` occurs twice and cancels. -/
theorem mixByte_invMixRow_mixRow (a : Nat → Byte) {r : Nat} (hr : r < 4) :
    mixByte invMixRow (mixByte mixRow a) r = a r := by
  have hlt : ∀ n, n % 4 < 4 := fun n => Nat.mod_lt n (by decide)
  rw [mixByte_invMixRow _ hr, mixByte_mixRow _ hr, mixByte_mixRow _ (hlt _), mixByte_mixRow _ (hlt _),
    mixByte_mixRow _ (hlt _)]
  have h5 : (r + 5) % 4 = (r + 1) % 4 := Nat.add_mod_right (r + 1) 4
  have h6 : (r + 6) % 4 = (r + 2) % 4 := Nat.add_mod_right (r + 2) 4
  simp only [Nat.mod_add_mod, Nat.add_assoc, Nat.reduceAdd, Nat.add_mod_right, Nat.mod_eq_of_lt hr, h5, h6]
  generalize a r = p, a ((r + 1) % 4) = q, a ((r + 2) % 4) = s, a ((r + 3) % 4) = t
  simp [BitVec.xor_assoc, BitVec.xor_comm, byte_xor_left_comm]

/-! ### The layers undo each other (R175 to R178) -/

theorem invSbox_sbox : ∀ a : Byte, invSbox (sbox a) = a := by decide +kernel

@[simp] theorem invSubBytes_subBytes (s : Bytes 16) : invSubBytes (subBytes s) = s := by
  refine Bytes.ext_byte fun k hk => ?_
  rw [invSubBytes, subBytes, Bytes.byte_ofFn _ hk, Bytes.byte_ofFn _ hk, invSbox_sbox]

@[simp] theorem invShiftRows_shiftRows (s : Bytes 16) : invShiftRows (shiftRows s) = s := by
  refine Bytes.ext_byte fun k hk => ?_
  rw [invShiftRows, shiftRows, Bytes.byte_ofFn _ hk, Bytes.byte_ofFn _ (by omega)]
  exact congrArg s.byte (by omega)

/-- A byte under a matrix depends on the four bytes of its column. -/
theorem mixByte_congr (m : Nat → Byte) {a b : Nat → Byte} (h : ∀ i < 4, a i = b i) (r : Nat) :
    mixByte m a r = mixByte m b r := by
  rw [mixByte, mixByte, h 0 (by decide), h 1 (by decide), h 2 (by decide), h 3 (by decide)]

/-- Row `r` of column `c` behind MixColumns. -/
theorem byte_mixColumns (s : Bytes 16) {c r : Nat} (hc : c < 4) (hr : r < 4) :
    (mixColumns s).byte (4 * c + r) = mixByte mixRow (fun i => s.byte (4 * c + i)) r := by
  have hcol : (4 * c + r) / 4 = c := by omega
  have hrow : (4 * c + r) % 4 = r := by omega
  rw [mixColumns, Bytes.byte_ofFn _ (by omega), hcol, hrow]

@[simp] theorem invMixColumns_mixColumns (s : Bytes 16) : invMixColumns (mixColumns s) = s := by
  refine Bytes.ext_byte fun k hk => ?_
  have hc : k / 4 < 4 := by omega
  have hr : k % 4 < 4 := by omega
  rw [invMixColumns, Bytes.byte_ofFn _ hk, mixByte_congr invMixRow fun i hi => byte_mixColumns s hc hi,
    mixByte_invMixRow_mixRow _ hr, Nat.div_add_mod]

@[simp] theorem addRoundKey_addRoundKey (rk s : Bytes 16) : addRoundKey rk (addRoundKey rk s) = s :=
  Bytes.xor_xor_cancel s rk

/-! ### The block operations undo each other (R182), under any round keys -/

/-- Decryption of a ciphertext walks back through the states of encryption: `n` rounds from the end it stands behind the
SubBytes and ShiftRows that follow encryption round `q = 13 - n`. -/
theorem decState_aesEncBlk (rk : Vec (Bytes 16) 15) (x : Bytes 16) {q n : Nat} (h : q + n = 13) :
    decState rk (aesEncBlk rk x) n = shiftRows (subBytes (encState rk x q)) := by
  induction n generalizing q with
  | zero =>
    obtain rfl : q = 13 := h
    rw [decState, aesEncBlk, addRoundKey_addRoundKey]
  | succ n ih =>
    have hkey : 13 - n = q + 1 := by omega
    rw [decState, ih (q := q + 1) (by omega), hkey, encState, invShiftRows_shiftRows, invSubBytes_subBytes,
      addRoundKey_addRoundKey, invMixColumns_mixColumns]

theorem aesDecBlk_aesEncBlk (rk : Vec (Bytes 16) 15) (x : Bytes 16) : aesDecBlk rk (aesEncBlk rk x) = x := by
  rw [aesDecBlk, decState_aesEncBlk rk x (q := 0) rfl, invShiftRows_shiftRows, invSubBytes_subBytes, encState,
    addRoundKey_addRoundKey]

/-- The blocks are finitely many, so encryption, which is injective, takes every block as its value. -/
theorem aesEncBlk_aesDecBlk (rk : Vec (Bytes 16) 15) (y : Bytes 16) : aesEncBlk rk (aesDecBlk rk y) = y := by
  have hinv : Function.LeftInverse (aesDecBlk rk) (aesEncBlk rk) := aesDecBlk_aesEncBlk rk
  have hfin : Finite (Bytes 16) := inferInstanceAs (Finite (List.Vector Byte 16))
  exact hinv.rightInverse_of_surjective (Finite.injective_iff_surjective.mp hinv.injective) y

/-- Settles O38: the block operations undo each other under whatever round keys (`aesDecBlk_aesEncBlk`,
`aesEncBlk_aesDecBlk`), those of the key's schedule among them. -/
theorem blockCipherInverse : Obligations.BlockCipherInverse :=
  fun key x => ⟨aesDecBlk_aesEncBlk (aesKeyExp key) x, aesEncBlk_aesDecBlk (aesKeyExp key) x⟩

end Sys2Proof.Machine
end

section
/-! SUPPORT. The statements of family CBC (42_cbc.md): the micro-operations CBC.INIT, CBC.ENCSTEP and CBC.DECSTEP, whose
states `exec_cbcInit`, `exec_cbcEncstep` and `exec_cbcDecstep` give, and decryption of a whole message as the inverse of
encryption, block by block. -/

namespace Sys2Proof.Machine

/-- The first bytes of a list that has enough of them. -/
theorem Bytes.val_ofList {n : Nat} {l : List Byte} (h : n ≤ l.length) : (Bytes.ofList n l).val = l.take n := by
  rw [← Bytes.ofList_take]
  exact congrArg Subtype.val (Bytes.ofList_val ⟨l.take n, List.length_take_of_le h⟩)

/-! ### Decryption undoes encryption (R204, R205) -/

/-- Each ciphertext block deciphers to its plaintext block XOR the chaining value, and is itself the next chaining value of
both directions. -/
theorem cbcDecBlocks_cbcEncBlocks (rk : Vec (Bytes 16) 15) (chain : Bytes 16) {q : Nat} {m : List Byte}
    (hm : m.length = 16 * q) : cbcDecBlocks rk chain q (cbcEncBlocks rk chain q m) = m := by
  induction q generalizing chain m with
  | zero => exact (List.eq_nil_of_length_eq_zero hm).symm
  | succ q ih =>
    have htail : (m.drop 16).length = 16 * q := by rw [List.length_drop]; omega
    rw [cbcEncBlocks, cbcDecBlocks, Bytes.ofList_append, List.drop_left' (Bytes.length_val _), ih _ htail,
      aesDecBlk_aesEncBlk, Bytes.xor_xor_cancel, Bytes.val_ofList (by omega), List.take_append_drop]

/-- Settles O42: both directions run over the same number of blocks (`cbcDecBlocks_cbcEncBlocks`). -/
theorem cbcInverse : Obligations.CbcInverse := by
  intro key iv m hm
  have hblocks : 16 * (m.length / 16) = m.length := Nat.mul_div_cancel' (Nat.dvd_of_mod_eq_zero hm)
  have hlen : (cbcEnc key iv m).length = m.length := (length_cbcEnc key iv m).trans hblocks
  refine ⟨?_, hlen⟩
  rw [cbcDec, hlen]
  exact cbcDecBlocks_cbcEncBlocks _ iv hblocks.symm

/-! ### CBC.INIT (R201) -/

/-- Settles O39: `IV` is the slice `DKM[32..47]`, and PAD.APPLY and CBC.DECSTEP have the codes 0x40 and 0x32. -/
theorem cbcInitResult : Obligations.CbcInitResult :=
  fun _ => ⟨fun hc => exec_cbcInit (.inl ⟨hc, rfl⟩), fun hc => exec_cbcInit (.inr ⟨hc, rfl⟩)⟩

/-! ### The registers and `OUT` after a block (R202, R203, R262, R263) -/

theorem State.encStep_eq (s : State) (p : Bytes 16) : s.encStep p =
    { s with aes := { s.aes with s := aesEncBlk s.aes.rk (p.xor s.chain), r := 14 },
             chain := aesEncBlk s.aes.rk (p.xor s.chain), blkN := s.blkN + 1 } := by
  rw [State.encStep, AesRegs.encrypt_eq]

theorem State.decStep_eq (s : State) (c : Bytes 16) : s.decStep c =
    { s with aes := { s.aes with s := aesDecBlk s.aes.rk c, r := 0 }, chain := c, blkN := s.blkN + 1 } := by
  rw [State.decStep, AesRegs.decrypt_eq]

theorem State.decPlain_eq (s : State) (c : Bytes 16) : s.decPlain c = (aesDecBlk s.aes.rk c).xor s.chain := by
  rw [State.decPlain, State.decStep_eq]

theorem State.store_out (s : State) (off : Nat) (bs : List Byte) :
    s.store .out off bs = { s with out := s.out.write off bs } := rfl

theorem State.readByte_encStep (s : State) (p : Bytes 16) (sp : Space) (a : Nat) :
    (s.encStep p).readByte sp a = s.readByte sp a := by
  cases sp <;> rfl

theorem State.readByte_decStep (s : State) (c : Bytes 16) (sp : Space) (a : Nat) :
    (s.decStep c).readByte sp a = s.readByte sp a := by
  cases sp <;> rfl

/-- The bytes of a sequence stand where it was stored. -/
theorem State.readByte_store_bytes {n : Nat} (s : State) (sp : Space) (off : Nat) (v : Bytes n) {j : Nat}
    (hj : j < n) : (s.store sp off v.val).readByte sp (off + j) = v.byte j := by
  have hlen : j < v.val.length := by rwa [Bytes.length_val]
  rw [s.readByte_store_inside sp off v.val hlen, Bytes.byte, List.getD_eq_getElem _ _ hlen]

/-- A machine that has written registers and then a sequence to `OUT` keeps every other byte. -/
theorem State.KeepsBytesBut.store {n : Nat} {s u : State} (h : ∀ sp a, u.readByte sp a = s.readByte sp a) (off : Nat)
    (v : Bytes n) (p : Byte) : s.KeepsBytesBut ((u.store .out off v.val).goto p) off n := by
  intro sp a hout _
  have houtside : sp ≠ .out ∨ a < off ∨ off + v.val.length ≤ a := by
    rw [Bytes.length_val]
    by_contra hc
    push Not at hc
    exact hout hc
  rw [State.readByte_goto, State.readByte_store_outside _ _ houtside, h]

/-! ### CBC.ENCSTEP (R202) -/

/-- Settles O40: the step leaves `State.encBlock` (`exec_cbcEncstep`), which stores its `CHAIN`. -/
theorem cbcEncstepResult : Obligations.CbcEncstepResult := by
  intro s hs hk
  refine ⟨_, exec_cbcEncstep hs hk, s.chain_encBlock, ?_, fun j hj => ?_, .store (s.readByte_encStep _) _ _ _⟩
  · simp only [State.goto, State.encBlock, State.encStep_eq, State.store_out, paddedBlocks, Nat.add_lt_add_iff_right,
      Instr.code]
  · rw [State.readByte_goto]
    exact State.readByte_store_bytes _ _ _ _ hj

/-! ### CBC.DECSTEP (R203) -/

/-- Settles O41: the step leaves `State.decBlock` (`exec_cbcDecstep`), which stores the deciphered block XOR the old
`CHAIN`. -/
theorem cbcDecstepResult : Obligations.CbcDecstepResult := by
  intro s hs hk
  refine ⟨_, exec_cbcDecstep hs hk, s.chain_decBlock, ?_, fun j hj => ?_, .store (s.readByte_decStep _) _ _ _⟩
  · simp only [State.goto, State.decBlock, State.decStep_eq, State.store_out, Instr.code]
    rfl
  · rw [State.readByte_goto, State.decBlock, State.readByte_store_bytes _ _ _ _ hj, State.decPlain_eq,
      Bytes.byte_xor _ _ hj, State.chain_goto, State.chain_store, State.chain_decStep]

end Sys2Proof.Machine
end

section
/-! SUPPORT. The statements of family PAD (43_padding.md): the data PAD.INSPECT accepts, by the bytes it ends in, and
the states in which PAD.APPLY and PAD.INSPECT leave the machine. -/

namespace Sys2Proof.Machine

/-! ### The data PAD.INSPECT accepts (R222 to R224) -/

/-- A list ends in `n` times `b` when the `n` bytes read from its end inwards are `b`. -/
theorem replicate_suffix_iff {d : List Byte} {n : Nat} (h : n ≤ d.length) (b : Byte) :
    List.replicate n b <:+ d ↔ ∀ k ∈ List.range n, d.getD (d.length - (k + 1)) 0 = b := by
  have hget {k : Nat} (hk : k < n) : d.reverse[k]? = some (d.getD (d.length - (k + 1)) 0) := by
    have hin : d.length - (k + 1) < d.length := by omega
    rw [List.getElem?_reverse (by omega), List.getD_eq_getElem _ _ hin, ← List.getElem?_eq_getElem hin,
      Nat.sub_sub, Nat.add_comm 1]
  rw [← List.reverse_prefix, List.reverse_replicate, List.prefix_iff_getElem?]
  simp only [List.length_replicate, List.getElem_replicate, List.mem_range]
  exact forall₂_congr fun k hk => by rw [hget hk, Option.some_inj]

/-- Valid padding is `n` bytes of value `n`, `n` from 1 to 16, at the end of the data (R222). -/
theorem padCheck_eq_some {d : List Byte} {n : Nat} :
    padCheck d = some n ↔ 1 ≤ n ∧ n ≤ 16 ∧ List.replicate n (BitVec.ofNat 8 n) <:+ d := by
  simp only [padCheck]
  constructor
  · intro h
    split_ifs at h with hc
    obtain ⟨hpos, hle, hlen, hall⟩ := hc
    cases h
    refine ⟨hpos, hle, ?_⟩
    rwa [BitVec.ofNat_toNat, BitVec.setWidth_eq, replicate_suffix_iff hlen]
  · rintro ⟨hpos, hle, hsuffix⟩
    have hlen : n ≤ d.length := by simpa using hsuffix.length_le
    have hall := (replicate_suffix_iff hlen _).mp hsuffix
    have hlast : d.getLastD 0 = BitVec.ofNat 8 n := by
      rw [← hall 0 (List.mem_range.mpr hpos), List.getLastD_eq_getLast?, List.getLast?_eq_getElem?,
        List.getD_eq_getElem?_getD]
    have hn : (d.getLastD 0).toNat = n := by rw [hlast]; exact Nat.mod_eq_of_lt (by omega)
    rw [hn, hlast, if_pos ⟨hpos, hle, hlen, hall⟩]

/-- Settles O45: the message is what stands before the padding (`padCheck_eq_some`). -/
theorem padInspectAccepts : Obligations.PadInspectAccepts := by
  intro d m
  rw [padInspect, Option.map_eq_some_iff]
  constructor
  · rintro ⟨n, hn, rfl⟩
    obtain ⟨hpos, hle, m, rfl⟩ := padCheck_eq_some.mp hn
    exact ⟨n, hpos, hle, by simp⟩
  · rintro ⟨n, hpos, hle, rfl⟩
    exact ⟨n, padCheck_eq_some.mpr ⟨hpos, hle, List.suffix_append _ _⟩, by simp⟩

/-- Settles O46: PAD.APPLY appends padding that PAD.INSPECT accepts (`padInspectAccepts`). -/
theorem padRoundTrip : Obligations.PadRoundTrip := by
  intro m
  have hpos : 1 ≤ padLength m.length := by rw [padLength]; omega
  exact (padInspectAccepts _ m).mpr ⟨padLength m.length, hpos, Nat.sub_le _ _, rfl⟩

/-! ### The micro-operations (R221, R222, R263) -/

/-- Settles O43: the pad length of R220 goes to `PAD_LEN`, and CBC.ENCSTEP has the code 0x31. -/
theorem padApplyResult : Obligations.PadApplyResult := fun _ => rfl

/-- The state in which PAD.INSPECT ends DECODE (R263), for what `padCheck` finds in `OUT[0..L-1]`. -/
def State.inspectedOut (s : State) : Option Nat → State
  | none => { s with padOk := false }.raise .paddingError
  | some n => State.complete { s with padOk := true, padLen := BitVec.ofNat 5 n, outLen := s.cipherLen - n }

theorem exec_padInspect_inspectedOut {s : State} (h : s.cipherLen ≤ s.caps.outMax) :
    exec .padInspect s = .next (s.inspectedOut (padCheck (s.read .out 0 s.cipherLen))) := by
  show execPadInspect s = _
  rw [execPadInspect, State.reading_fits s _ (by simpa [Caps.cap] using h)]
  cases hc : padCheck (s.read .out 0 s.cipherLen) with
  | none => rfl
  | some n =>
    have hn : (BitVec.ofNat 5 n).toNat = n := Nat.mod_eq_of_lt (Nat.lt_of_le_of_lt (padCheck_le hc) (by decide))
    simp only [hn, State.inspectedOut]

/-- Settles O44: DECODE ends in `State.inspectedOut`, where nothing has been stored; the message is the data without its
padding. -/
theorem padInspectResult : Obligations.PadInspectResult := by
  intro s hmax
  refine ⟨_, exec_padInspect_inspectedOut hmax, ?_⟩
  rw [padInspect, ← State.cipherLen, State.length_read]
  cases padCheck (s.read .out 0 s.cipherLen) with
  | none =>
    exact ⟨.raise (fun sp _ => by cases sp <;> rfl) _ _ _, State.busy_raise _ _, State.done_raise _ _,
      State.sameButPrivate_raise { s with padOk := false } _, State.err_raise _ _⟩
  | some n =>
    refine ⟨.complete (fun sp _ => by cases sp <;> rfl) _ _, State.busy_complete _, State.done_complete _, ?_,
      State.err_complete _⟩
    rw [List.length_take_of_le (by simp)]
    rfl

end Sys2Proof.Machine
end

section
/-! SUPPORT. The statements of family CTR (44_container.md): who draws a salt, the header that CTR.FORMAT writes, and what
CTR.PARSE makes of a container under a configuration with and without the marker test. -/

namespace Sys2Proof.Machine

/-! ### The random source (R240, R69) -/

/-- What the outcome `o` goes on with, if it does, has the answers of RNG and the count of draws as `s` has them. -/
def State.KeepsRng (s : State) (o : Out) : Prop := ∀ t, o = .next t → t.draws = s.draws ∧ t.rng = s.rng

section
variable {s u : State}

theorem State.KeepsRng.next (hd : u.draws = s.draws) (hr : u.rng = s.rng) : s.KeepsRng (.next u) := by
  rintro t ⟨⟩
  exact ⟨hd, hr⟩

theorem State.KeepsRng.fault (f : Fault) : s.KeepsRng (.fault f) := fun _ ht => nomatch ht

theorem State.KeepsRng.ite {c : Prop} [Decidable c] {o o' : Out} (h : s.KeepsRng o) (h' : s.KeepsRng o') :
    s.KeepsRng (if c then o else o') := by
  split
  · exact h
  · exact h'

theorem State.KeepsRng.whenIdle {o : Out} (h : s.KeepsRng o) : s.KeepsRng (u.whenIdle o) :=
  fun t ht => h t (State.whenIdle_next ht).2

theorem State.KeepsRng.reading {sp : Space} {off n : Nat} {k : List Byte → Out} (h : ∀ bs, s.KeepsRng (k bs)) :
    s.KeepsRng (u.reading sp off n k) :=
  fun t ht => h _ t (State.reading_next ht).2

theorem State.KeepsRng.writing {sp : Space} {off : Nat} {bs : List Byte} {k : State → Out}
    (h : s.KeepsRng (k (u.store sp off bs))) : s.KeepsRng (u.writing sp off bs k) :=
  fun t ht => h t (State.writing_next ht).2

end

theorem State.keepsRng_takeSalt (s : State) : s.KeepsRng s.takeSalt := .reading fun _ => .next rfl rfl

/-- Every instruction but RNG.SALT leaves RNG alone. -/
theorem exec_keepsRng {i : Instr} (s : State) (hi : i ≠ .rngSalt) : s.KeepsRng (exec i s) := by
  cases i with
  | rngSalt => exact absurd rfl hi
  | sha256Hash | sha256Compress | aesKeyexp | aesEncblk | aesDecblk | padApply => exact .next rfl rfl
  | encode | decode => exact .whenIdle (.next rfl rfl)
  | derive => exact .whenIdle (.ite (.next rfl rfl) (.reading fun _ => .next rfl rfl))
  | kdfRun => rw [exec, execKdfRun]; exact .reading fun _ => .next rfl rfl
  | pbkdf2F => rw [exec, execPbkdf2F]; exact .reading fun _ => .next rfl rfl
  | hmac => rw [exec, execHmac]; exact .reading fun _ => .next rfl rfl
  | kdfSplit =>
    exact .ite (.writing (.next rfl rfl)) (.ite (.next rfl rfl) (.ite (.ite (.next rfl rfl) (.next rfl rfl)) (.fault _)))
  | cbcInit => exact .ite (.next rfl rfl) (.ite (.next rfl rfl) (.fault _))
  | cbcEncstep => rw [exec, execCbcEncstep]; exact .reading fun _ => .writing (.next rfl rfl)
  | cbcDecstep => rw [exec, execCbcDecstep]; exact .reading fun _ => .writing (.next rfl rfl)
  | padInspect =>
    rw [exec, execPadInspect]
    refine .reading fun d => ?_
    cases padCheck d with
    | none => exact .next rfl rfl
    | some n => exact .next rfl rfl
  | ctrFormat => rw [exec, execCtrFormat, State.ctrFormat]; exact .writing (.writing (.next rfl rfl))
  | ctrParse =>
    exact .ite (.next rfl rfl) (.ite (.reading fun _ => .ite s.keepsRng_takeSalt (.next rfl rfl)) s.keepsRng_takeSalt)

/-- Settles O14: RNG.SALT answers one state, and the others leave RNG alone (`exec_keepsRng`). -/
theorem onlyRngSaltDraws : Obligations.OnlyRngSaltDraws := by
  intro i s t h
  split_ifs with hi
  · subst hi; cases h; exact ⟨rfl, rfl, rfl⟩
  · exact exec_keepsRng s hi t h

/-- Settles O47: KDF.RUN has the code 0x10, and the next draw is the answer laid down for it. -/
theorem rngSaltResult : Obligations.RngSaltResult :=
  fun s => ⟨rfl, fun salt rest h => by rw [State.nextDraw, h]⟩

/-! ### CTR.FORMAT (R241, R262) -/

/-- The state in which CTR.FORMAT ends ENCODE: the header stands in `OUT`, before the ciphertext. -/
def State.formattedOut (s : State) : State :=
  State.complete { s.headed with outLen := 16 + 16 * paddedBlocks s.inLen }

theorem exec_ctrFormat_formattedOut {s : State} (h : 16 ≤ s.caps.outMax) :
    exec .ctrFormat s = .next s.formattedOut := by
  show s.ctrFormat Config.cfg = _
  rw [State.ctrFormat, State.writing_fits _ _ (by simp only [Caps.cap, Bytes.length_val]; omega),
    State.writing_fits _ _ (by simpa only [Caps.cap, Bytes.length_val, State.caps_store] using h)]
  rfl

theorem State.sameButPrivate_formattedOut (s : State) :
    { s with outLen := 16 + 16 * paddedBlocks s.inLen, status := s.formattedOut.status,
             phase := phaseDoneOk }.SameButPrivate s.formattedOut := rfl

/-- The end of ENCODE keeps what is below `OUT_LEN` as the writes of the header left it. -/
theorem State.readByte_formattedOut (s : State) {sp : Space} {a : Nat}
    (h : sp = .out → a < 16 + 16 * paddedBlocks s.inLen) : s.formattedOut.readByte sp a = s.headed.readByte sp a := by
  refine (State.readByte_complete _ h).trans ?_
  cases sp <;> rfl

/-- The marker, then the salt. -/
theorem State.read_formattedOut (s : State) :
    s.formattedOut.read .out 0 8 = Config.cfg.marker.val ∧ s.formattedOut.read .out 8 8 = s.salt.val := by
  have hread : s.formattedOut.read .out 0 16 = s.headed.read .out 0 16 :=
    State.read_congr fun k hk => s.readByte_formattedOut fun _ => by omega
  rw [s.read_headed, State.read_add _ _ 0 8 8] at hread
  exact List.append_inj hread (by simp)

theorem State.keepsBytesBut_formattedOut (s : State) : s.KeepsBytesBut s.formattedOut 0 16 := by
  intro sp a hout hend
  rw [s.readByte_formattedOut fun ho => (hend ho).resolve_left (by simp [State.formattedOut, State.running])]
  by_cases ho : sp = .out
  · subst ho
    exact s.readByte_headed (by by_contra ha; exact hout ⟨rfl, by omega, by omega⟩)
  · exact s.sameOperands_headed.readByte ho a

/-- Settles O48: ENCODE ends in `State.formattedOut`. -/
theorem ctrFormatResult : Obligations.CtrFormatResult := by
  intro s hmax
  obtain ⟨hmarker, hsalt⟩ := s.read_formattedOut
  exact ⟨s.formattedOut, exec_ctrFormat_formattedOut hmax, s.sameButPrivate_formattedOut, State.busy_complete _,
    State.done_complete _, State.err_complete _, hmarker, hsalt, s.keepsBytesBut_formattedOut⟩

/-! ### CTR.PARSE (R242, R243) -/

/-- The salt field of a container within the capacity goes to `SALT`. -/
theorem State.takeSalt_fits {s : State} (hmax : s.inLen ≤ s.caps.inMax) (hl : 16 ≤ s.inLen) : s.takeSalt
    = .next ({ s with salt := Bytes.ofList 8 (s.input.drop 8) }.goto Instr.kdfRun.code) := by
  rw [State.takeSalt, State.withSaltField, State.reading_fits s _ (by simp only [Caps.cap]; omega),
    s.ofList_read_input (by omega)]

/-- The marker test compares the first 8 bytes of the input. -/
theorem State.ctrParse_strict {cfg : Cfg} {s : State} (hcfg : cfg.strictMarker = true) (hmax : s.inLen ≤ s.caps.inMax)
    (hl : 16 ≤ s.inLen) : s.ctrParse cfg
    = if s.input.take 8 = cfg.marker.val then s.takeSalt else .next (s.raise .formatError) := by
  have hfield : s.read .inp 0 8 = s.input.take 8 := s.read_eq_take_drop .inp (by omega)
  rw [State.ctrParse, if_neg (by omega), if_pos hcfg, State.reading_fits s _ (by simp only [Caps.cap]; omega), hfield]

/-- What CTR.PARSE leaves of a container that it refuses (R301, R306). -/
theorem State.formatError_ends (s : State) :
    { s with phase := 0xF1, status := (s.raise .formatError).status, outLen := 0 }.SameButPrivate (s.raise .formatError)
      ∧ (s.raise .formatError).busy = false ∧ (s.raise .formatError).done = true ∧ (s.raise .formatError).err = 1 :=
  ⟨s.sameButPrivate_raise _, s.busy_raise _, s.done_raise _, s.err_raise _⟩

/-- Settles O49: `CFG.STRICT_MARKER` is 0 in this hardware, so the length is all that is tested. -/
theorem ctrParseResult : Obligations.CtrParseResult := by
  refine fun s hmax => ⟨fun hl => ?_, fun hl => ⟨_, exec_ctrParse_short hl, s.formatError_ends⟩⟩
  show s.ctrParse Config.cfg = _
  rw [State.ctrParse, if_neg (by omega), if_neg (by decide), State.takeSalt_fits hmax hl]
  rfl

/-- Settles O50, by the marker test (`State.ctrParse_strict`). -/
theorem strictMarkerTest : Obligations.StrictMarkerTest := by
  intro cfg s hcfg hmax hl
  rw [State.ctrParse_strict hcfg hmax hl]
  split_ifs with hm
  · exact State.takeSalt_fits hmax hl
  · exact ⟨_, rfl, s.formatError_ends⟩

end Sys2Proof.Machine
end

section
/-! SUPPORT. The statements about the commands (45_commands.md): a command run to its end, DECODE of what ENCODE made, the
issue of a command, and what HOST can see and do before and after its end. -/

namespace Sys2Proof.Machine

/-! ### Commands run to their ends (R261 to R263, R268) -/

/-- A command issued while `BUSY = 0` goes on, so it ends with what it ends with once it goes on. -/
theorem exec_cmd_ends {i : Instr} {s : State} {n : Nat} {r : Except Err (List Byte)} {draws : Nat}
    (hi : i.format = .cmd) (hs : s.Sized) (hb : s.busy = false)
    (hend : ∀ t, exec i s = .next t → ∃ u, s.EndsWith t n r draws u) :
    ∃ t u, exec i s = .next t ∧ Machine.run n t = .next u ∧ u.Shows r
      ∧ u.password = s.password ∧ u.input = s.input ∧ u.draws = draws := by
  obtain ⟨t, ht⟩ := exec_cmd_goes_on hi hs hb
  obtain ⟨u, hu⟩ := hend t ht
  exact ⟨t, u, ht, hu.run, hu.shows, hu.password, hu.input, hu.draws⟩

/-- Settles O53: the chain of micro-operations of DERIVE is `derive_endsWith`. -/
theorem deriveCommand : Obligations.DeriveCommand :=
  fun _ hs hb hh => exec_cmd_ends rfl hs hb fun _ => derive_endsWith hs hh

/-- Settles O54: the chain of micro-operations of ENCODE is `encode_endsWith`. -/
theorem encodeCommand : Obligations.EncodeCommand :=
  fun _ hs hb hh => exec_cmd_ends rfl hs hb fun _ => encode_endsWith hs hh

/-- Settles O55: the chains of micro-operations of DECODE, one for each of its errors, are in `decode_endsWith`. -/
theorem decodeCommand : Obligations.DecodeCommand :=
  fun _ hs hb hh => exec_cmd_ends rfl hs hb fun _ => decode_endsWith hs hh

/-! ### Containers (R271, R273) -/

/-- DECODE of a container with the right marker and a body of whole blocks: both tests pass, in every configuration, and
the salt is that of the header. -/
theorem decodeFn_container (cfg : Cfg) (pw : List Byte) (salt : Bytes 8) {body : List Byte} (hpos : body.length ≠ 0)
    (hblocks : body.length % 16 = 0) : decodeFn cfg pw (cfg.marker.val ++ salt.val ++ body)
    = inspected (cbcDec (keyOf (deriveKey cfg pw salt)) (ivOf (deriveKey cfg pw salt)) body) := by
  have hmarker : (cfg.marker.val ++ salt.val ++ body).take 8 = cfg.marker.val := by
    rw [List.append_assoc, List.take_left' (Bytes.length_val _)]
  have hsalt : Bytes.ofList 8 ((cfg.marker.val ++ salt.val ++ body).drop 8) = salt := by
    rw [List.append_assoc, List.drop_left' (Bytes.length_val _), Bytes.ofList_append]
  have hbody : (cfg.marker.val ++ salt.val ++ body).drop 16 = body := List.drop_left' (by simp)
  have hlen : 16 ≤ (cfg.marker.val ++ salt.val ++ body).length := by
    simp only [List.length_append, Bytes.length_val]
    omega
  rw [decodeFn, if_neg (Nat.not_lt.mpr hlen), if_neg (fun h => h.2 hmarker)]
  simp only [hsalt, hbody]
  rw [if_neg (by simp [hpos, hblocks])]
  rfl

/-- Settles O57: decryption gives the padded plaintext back (`cbcInverse`), and its inspection the plaintext
(`padRoundTrip`). -/
theorem decodeUndoesEncodeCommand : Obligations.DecodeUndoesEncodeCommand := by
  intro cfg pw text salt
  have hpadded : (padApply text).length = 16 * (text.length / 16 + 1) := length_padApply text
  obtain ⟨hinv, hlen⟩ := cbcInverse (keyOf (deriveKey cfg pw salt)) (ivOf (deriveKey cfg pw salt)) (padApply text)
    (by omega)
  rw [encodeFn, decodeFn_container cfg pw salt (by omega) (by omega), hinv, inspected, padRoundTrip text]

/-- Bytes 8 to 15 of a container are the draw. -/
theorem salt_encodeFn (cfg : Cfg) (pw text : List Byte) (salt : Bytes 8) :
    ((encodeFn cfg pw text salt).drop 8).take 8 = salt.val := by
  rw [encodeFn, List.append_assoc, List.drop_left' (Bytes.length_val _), List.take_left' (Bytes.length_val _)]

/-- Settles O59: equal containers have equal bytes 8 to 15. -/
theorem saltTellsContainersApart : Obligations.SaltTellsContainersApart := by
  intro cfg pw text salt salt'
  refine ⟨salt_encodeFn cfg pw text salt, fun h => Subtype.ext ?_, fun h => h ▸ rfl⟩
  rw [← salt_encodeFn cfg pw text salt, h, salt_encodeFn]

/-! ### The issue of a command (R260, R261) -/

/-- Settles O51: DERIVE goes on with the salt (`exec_derive`), or ends at once (`exec_derive_bad`). -/
theorem deriveIssue : Obligations.DeriveIssue :=
  fun _ hs hb =>
    ⟨fun hl => ⟨_, exec_derive hs hb hl, Status.busy_put _ _ _ _, Status.done_put _ _ _ _, Status.err_put _ _ _ _, rfl⟩,
     fun hl => ⟨_, exec_derive_bad hb hl, State.busy_raise _ _, State.done_raise _ _, State.err_raise _ _, rfl⟩⟩

/-- Settles O52: ENCODE and DECODE are issued and do nothing else. -/
theorem codecIssue : Obligations.CodecIssue :=
  fun s hb =>
    ⟨⟨_, State.whenIdle_idle _ hb, s.busy_issue _ _, s.done_issue _ _, s.err_issue _ _, rfl⟩,
     ⟨_, State.whenIdle_idle _ hb, s.busy_issue _ _, s.done_issue _ _, s.err_issue _ _, rfl⟩⟩

/-! ### HOST while `BUSY = 1` (R267, U6) -/

section
variable {s : State} (hb : s.busy = true)
include hb

theorem State.cmdTurn_busy (v : Nat) : s.cmdTurn v = .took (.refused .accessWhileBusy) := by
  rw [State.cmdTurn, if_pos hb]

theorem State.hostReadReg_busy {no : Nat} (hno : no ≠ 0x01) : s.hostReadReg no = .refused .accessWhileBusy := by
  rw [State.hostReadReg, if_pos ⟨hb, hno⟩]

theorem State.hostWriteBuf_busy (sp : Space) (off : Nat) (bs : List Byte) :
    s.hostWriteBuf sp off bs = .refused .accessWhileBusy := by
  rw [State.hostWriteBuf, if_pos hb]

theorem State.hostReadBuf_busy (sp : Space) (off n : Nat) : s.hostReadBuf sp off n = .refused .accessWhileBusy := by
  rw [State.hostReadBuf, if_pos hb]

end

/-- Settles O18: the moves of HOST one by one. -/
theorem busyRefusesHost : Obligations.BusyRefusesHost := by
  intro s m rest hb hh hm
  have hb' : State.busy { s with host := rest } = true := hb
  suffices hturn : s.turn = .took (.refused .accessWhileBusy) by rw [step, hturn]
  cases m with
  | pass | wait | reset => simp at hm
  | writeReg no v =>
    cases no with
    | zero => exact (State.turn_writeCmd hh).trans (State.cmdTurn_busy hb' v)
    | succ no => simp [State.turn, hh, hb]
  | readReg no =>
    have hno : no ≠ 0x01 := by rintro rfl; simp at hm
    simp [State.turn, hh, State.hostReadReg_busy hb' hno]
  | writeBuf sp off bs => simp [State.turn, hh, State.hostWriteBuf_busy hb']
  | readBuf sp off n => simp [State.turn, hh, State.hostReadBuf_busy hb']
  | readOut => simp [State.turn, hh, State.hostReadBuf_busy hb']

/-! ### STATUS (R267, R27, R103) -/

theorem Status.toNat_visible (st : Byte) : (Status.visible st).toNat = st.toNat % 16 := by
  rw [Status.visible, BitVec.toNat_and]
  exact Nat.and_two_pow_sub_one_eq_mod st.toNat 4

/-- BUSY, DONE and ERR in the value that HOST reads. -/
theorem Status.fields_visible (st : Byte) : (Status.visible st).toNat.testBit 0 = Status.busy st
    ∧ (Status.visible st).toNat.testBit 1 = Status.done st ∧ (Status.visible st).toNat / 4 = (Status.err st).toNat := by
  rw [Status.toNat_visible]
  refine ⟨Nat.testBit_mod_two_pow st.toNat 4 0, Nat.testBit_mod_two_pow st.toNat 4 1, ?_⟩
  rw [Status.err, BitVec.extractLsb'_toNat, Nat.shiftRight_eq_div_pow]
  omega

/-- Settles O19: `STATUS` is the one register that HOST reads whatever `BUSY` is. -/
theorem statusReadable : Obligations.StatusReadable := by
  intro s rest hh
  have hread : State.hostReadReg { s with host := rest } 0x01
      = .next (State.give { s with host := rest } (.reg 0x01 (Status.visible s.status).toNat)) :=
    if_neg fun h => h.2 rfl
  refine ⟨_, (step_readReg hh).trans hread, ?_, Status.fields_visible s.status⟩
  rw [Status.toNat_visible]
  omega

/-! ### The result of a command (R266, R267, R307) -/

/-- HOST's read of a buffer while `BUSY = 0`. -/
theorem State.hostReadBuf_idle {s : State} (hb : s.busy = false) (sp : Space) (off n : Nat) : s.hostReadBuf sp off n
    = if sp = .out ∧ s.done = true ∧ s.err = 0 ∧ off + n ≤ s.outLen then .next (s.give (.bytes (s.read .out off n)))
      else .refused .accessForbidden := by
  rw [State.hostReadBuf, if_neg (by simp [hb])]

/-- Settles O20: both moves are a read of a buffer (`State.hostReadBuf_idle`), READ OUT one that ends at `OUT_LEN`. -/
theorem outReadableAfterSuccess : Obligations.OutReadableAfterSuccess := by
  intro s sp off n rest hb
  have hidle := State.hostReadBuf_idle (s := { s with host := rest }) hb
  refine ⟨fun hh => ?_, fun hh => ?_⟩
  · have hstep : step s = State.hostReadBuf { s with host := rest } sp off n := by simp [step, State.turn, hh]
    split_ifs with h
    · exact (hstep.trans (hidle sp off n)).trans (if_pos h)
    · exact (hstep.trans (hidle sp off n)).trans (if_neg h)
  · have hstep : step s = State.hostReadBuf { s with host := rest } .out 0 s.outLen := by simp [step, State.turn, hh]
    split_ifs with h
    · obtain ⟨hdone, herr⟩ := h
      rw [hstep, hidle, if_pos ⟨rfl, hdone, herr, Nat.le_of_eq (Nat.zero_add _)⟩]
      simp only [State.read, Nat.zero_add]
      rfl
    · exact (hstep.trans (hidle .out 0 s.outLen)).trans (if_neg fun ⟨_, hdone, herr, _⟩ => h ⟨hdone, herr⟩)

/-- SEQ makes no move at rest (R30). -/
theorem State.SeqMoves.eq_of_rest {s t : State} (hr : s.running = false) (h : s.SeqMoves t) : t = s :=
  h.elim And.right fun hrun => absurd hrun.1 (by simp [hr])

/-- Settles O23: at rest SEQ makes no move, and an access of HOST's other than a command writes at most `PW`, `IN`
and their lengths (`step_next`). -/
theorem outputStable : Obligations.OutputStable := by
  intro s t hr hcmd hreset h
  obtain ⟨-, hq⟩ | ⟨rest, -, hq⟩ | ⟨v, rest, -, hh, -⟩ | ⟨rest, hh, -⟩ | ⟨-, ⟨pwLen, inLen, pw, inp, seen, rfl⟩, -⟩ :=
    step_next h
  · rw [hq.eq_of_rest hr]
    exact ⟨rfl, rfl, rfl, fun _ => rfl⟩
  · rw [hq.eq_of_rest (s := { s with host := rest }) hr]
    exact ⟨rfl, rfl, rfl, fun _ => rfl⟩
  · exact absurd hh (hcmd v rest)
  · exact absurd hh (hreset rest)
  · exact ⟨rfl, rfl, rfl, fun _ => rfl⟩

end Sys2Proof.Machine
end

section
/-! SUPPORT. The ways into DONE_ERR (60_exceptions.md R300 to R306): error entry is the only one, and four instructions
make it. -/

namespace Sys2Proof.Machine

/-- A command starts at a micro-operation, not at an error. -/
theorem State.Starts.ne_doneErr {s : State} {i : Instr} {first : Byte} (h : s.Starts first i) : first ≠ phaseDoneErr := by
  cases i with
  | derive => obtain ⟨rfl, -⟩ := h; decide
  | encode | decode => obtain rfl : first = _ := h; decide
  | _ => exact h.elim

/-- What error entry shows, whatever the state it strikes (R306). -/
theorem State.raise_shows_code (u : State) (e : Err) :
    (u.raise e).outLen = 0 ∧ (u.raise e).busy = false ∧ (u.raise e).done = true ∧ (u.raise e).err = e.code :=
  ⟨u.outLen_raise e, u.busy_raise e, u.done_raise e, u.err_raise e⟩

/-- A command that ends in DONE_ERR at its issue is DERIVE, by its length test (R303). -/
theorem exec_cmd_doneErr {i : Instr} {s t : State} (hi : i.format = .cmd) (h : exec i s = .next t)
    (hp : t.phase = phaseDoneErr) : i = .derive ∧ s.inLen ≠ 8 ∧ ∃ u : State, t = u.raise .derivationError := by
  obtain ⟨-, ⟨hd, hl, rfl⟩ | ⟨first, hf, hw, -⟩⟩ := exec_cmd_next hi h
  · exact ⟨hd, hl, _, rfl⟩
  · exact absurd (hw.phase.symm.trans hp) hf.ne_doneErr

/-- A micro-operation that ends in DONE_ERR raised the error its test names: its other ways out are its successor and
completion. -/
theorem State.Did.raised {s u t : State} {i : Instr} (hd : s.Did u i t) (hp : t.phase = phaseDoneErr) :
    (i = .ctrParse ∧ s.inLen < 16 ∧ t = u.raise .formatError)
      ∨ (i = .kdfSplit ∧ s.curCmd = Instr.decode.code ∧ s.badCipherLen = true ∧ t = u.raise .paddingError)
      ∨ (i = .padInspect ∧ u.padOk = false ∧ t = u.raise .paddingError) := by
  obtain ⟨p, hgo, rfl⟩ | ⟨n, -, rfl⟩ | hraise := hd.leaves
  · exact absurd hp hgo.not_end.2
  · exact absurd hp (by rw [State.phase_complete]; decide)
  · exact hraise

/-- Settles O16: DERIVE's length test at the issue (`exec_cmd_doneErr`), or the test of one of the three micro-operations
that raise an error (`State.Did.raised`). -/
theorem errorCauses : Obligations.ErrorCauses := by
  intro i s t h hp
  cases hi : i.format with
  | cmd =>
    obtain ⟨hd, hl, u, rfl⟩ := exec_cmd_doneErr hi h hp
    obtain ⟨hout, hb, hdone, herr⟩ := u.raise_shows_code .derivationError
    exact ⟨hout, hb, hdone, .inl ⟨hd, hl, herr⟩⟩
  | uop =>
    obtain ⟨u, hd⟩ := exec_uop_did hi h
    obtain ⟨hparse, hl, rfl⟩ | ⟨hsplit, -, hbad, rfl⟩ | ⟨hinspect, hpad, rfl⟩ := hd.raised hp
    · obtain ⟨hout, hb, hdone, herr⟩ := u.raise_shows_code .formatError
      exact ⟨hout, hb, hdone, .inr (.inl ⟨hparse, hl, herr⟩)⟩
    · obtain ⟨hout, hb, hdone, herr⟩ := u.raise_shows_code .paddingError
      exact ⟨hout, hb, hdone, .inr (.inr (.inl ⟨hsplit, hbad, herr⟩))⟩
    · obtain ⟨hout, hb, hdone, herr⟩ := u.raise_shows_code .paddingError
      exact ⟨hout, hb, hdone, .inr (.inr (.inr ⟨hinspect, (u.padOk_raise _).trans hpad, herr⟩))⟩

end Sys2Proof.Machine
end

section
/-! SUPPORT. Reset in any state (70_reset_and_hazards.md R340), and the end of every command (R351): each micro-operation
lowers a bound on the steps that are left. -/

namespace Sys2Proof.Machine

/-! ### Reset -/

/-- Settles O8: the reset input comes before SEQ's turn, whatever the position, and `State.resetEvent` keeps only what is
no state of the core. -/
theorem resetStrikesAnywhere : Obligations.ResetStrikesAnywhere := by
  intro s rest hh
  have hstep : step s = .next (State.resetEvent { s with host := rest }) := by simp [step, State.turn, hh]
  exact ⟨_, hstep, rfl, rfl, rfl, rfl, rfl, rfl, rfl, rfl, rfl, rfl, rfl, rfl, rfl⟩

/-! ### The steps that are left -/

/-- A bound on the steps of the model (log entries 2 and 9) from the position of `i` to the end of the command: the path of
R264, with a step for each block from `BLK_N` on. -/
def State.stepsLeft (s : State) : Instr → Nat
  | .derive | .encode | .decode => 0
  | .ctrFormat | .padInspect => 1
  | .cbcEncstep | .cbcDecstep => s.inLen / 16 - s.blkN + 2
  | .aesEncblk | .aesDecblk => s.inLen / 16 - s.blkN + 3
  | .padApply => s.inLen / 16 + 3
  | .cbcInit => s.inLen / 16 + 4
  | .aesKeyexp => s.inLen / 16 + 5
  | .kdfSplit => s.inLen / 16 + 6
  | .kdfRun => s.inLen / 16 + 7
  | .rngSalt | .ctrParse | .pbkdf2F => s.inLen / 16 + 8
  | .hmac => s.inLen / 16 + 9
  | .sha256Hash => s.inLen / 16 + 10
  | .sha256Compress => s.inLen / 16 + 11

theorem State.stepsLeft_le (s : State) (i : Instr) : s.stepsLeft i ≤ 12 + s.inLen / 16 := by
  cases i <;> simp only [State.stepsLeft] <;> omega

theorem State.stepsLeft_pos (s : State) {i : Instr} (hi : i.format = .uop) : 0 < s.stepsLeft i := by
  cases i with
  | derive | encode | decode => cases hi
  | _ => exact Nat.succ_pos _

/-- A step over a block counts it. -/
theorem exec_cbc_blkN {i : Instr} {s t : State} (hi : i = .cbcEncstep ∨ i = .cbcDecstep) (h : exec i s = .next t) :
    t.blkN = s.blkN + 1 := by
  obtain rfl | rfl := hi
  all_goals
    simp only [exec, execCbcEncstep, execCbcDecstep] at h
    obtain ⟨-, h⟩ := State.reading_next h
    obtain ⟨-, h⟩ := State.writing_next h
    cases h
    rfl

/-- Fewer steps are left at the position that follows: in the loops over blocks because `BLK_N` grows, elsewhere because
R264 leads forward. -/
theorem State.GoesTo.stepsLeft_lt {s u : State} {i : Instr} {p : Byte} (h : s.GoesTo u p i) (hl : u.inLen = s.inLen)
    (hk : i = .cbcEncstep ∨ i = .cbcDecstep → u.blkN = s.blkN + 1) :
    ∃ j : Instr, j.format = .uop ∧ p = j.code ∧ u.stepsLeft j < s.stepsLeft i := by
  cases i with
  | derive | encode | decode | ctrFormat | padInspect => exact h.elim
  | sha256Compress => exact ⟨.sha256Hash, rfl, h, by simp [State.stepsLeft, hl]⟩
  | sha256Hash => exact ⟨.hmac, rfl, h, by simp [State.stepsLeft, hl]⟩
  | hmac => exact ⟨.pbkdf2F, rfl, h, by simp [State.stepsLeft, hl]⟩
  | pbkdf2F | rngSalt => exact ⟨.kdfRun, rfl, h, by simp [State.stepsLeft, hl]⟩
  | ctrParse => exact ⟨.kdfRun, rfl, h.1, by simp [State.stepsLeft, hl]⟩
  | kdfRun => exact ⟨.kdfSplit, rfl, h, by simp [State.stepsLeft, hl]⟩
  | kdfSplit => exact ⟨.aesKeyexp, rfl, h.1, by simp [State.stepsLeft, hl]⟩
  | aesKeyexp => exact ⟨.cbcInit, rfl, h, by simp [State.stepsLeft, hl]⟩
  | cbcInit =>
    obtain ⟨hk0, ⟨-, hp⟩ | ⟨-, hp⟩⟩ := h
    · exact ⟨.padApply, rfl, hp, by simp [State.stepsLeft, hl]⟩
    · exact ⟨.cbcDecstep, rfl, hp, by simp [State.stepsLeft, hl, hk0]⟩
  | padApply | aesEncblk => exact ⟨.cbcEncstep, rfl, h.1, by simp only [State.stepsLeft, h.2]; omega⟩
  | aesDecblk => exact ⟨.cbcDecstep, rfl, h.1, by simp [State.stepsLeft, hl, h.2]⟩
  | cbcEncstep =>
    have hnext := hk (.inl rfl)
    obtain ⟨hp, hlt⟩ | hp := h
    · exact ⟨.cbcEncstep, rfl, hp, by simp only [paddedBlocks, State.stepsLeft] at hlt ⊢; omega⟩
    · exact ⟨.ctrFormat, rfl, hp, by simp [State.stepsLeft]⟩
  | cbcDecstep =>
    have hnext := hk (.inr rfl)
    obtain ⟨hp, hlt⟩ | hp := h
    · exact ⟨.cbcDecstep, rfl, hp, by simp only [State.cipherLen, State.stepsLeft] at hlt ⊢; omega⟩
    · exact ⟨.padInspect, rfl, hp, by simp [State.stepsLeft]⟩

/-- A micro-operation ends its command, or fewer steps are left after it. -/
theorem exec_uop_ends_or_descends {i : Instr} {s t : State} (hi : i.format = .uop) (h : exec i s = .next t) :
    (t.running = false ∧ t.done = true)
      ∨ ∃ j : Instr, j.format = .uop ∧ t.phase = j.code ∧ t.stepsLeft j < s.stepsLeft i := by
  obtain ⟨u, hd⟩ := exec_uop_did hi h
  obtain ⟨p, hgo, rfl⟩ | ⟨n, -, rfl⟩ | ⟨-, -, rfl⟩ | ⟨-, -, -, rfl⟩ | ⟨-, -, rfl⟩ := hd.leaves
  · exact .inr (hgo.stepsLeft_lt hd.works.inLen fun hcbc => (exec_cbc_blkN hcbc h :))
  · exact .inl ⟨rfl, State.done_complete _⟩
  all_goals exact .inl ⟨rfl, State.done_raise _ _⟩

/-! ### The end of a command -/

/-- Every position of a microprogram is that of a micro-operation. -/
theorem microprogram_code : ∀ cmd ∈ [0x01, 0x02, 0x03], ∀ p ∈ microprogram cmd,
    ∃ r ∈ uopRows, r.instr.format = .uop ∧ p = r.instr.code := by
  decide

/-- A machine that meets the invariant and runs makes the step of the micro-operation at its position. -/
theorem State.Inv.step_uop {s : State} {i : Instr} (hs : s.Inv) (hh : s.host = []) (hi : i.format = .uop)
    (hp : s.phase = i.code) : ∃ t, step s = .next t ∧ exec i s = .next t ∧ t.Inv ∧ t.host = [] := by
  have hr : s.running = true := by
    obtain ⟨hidle, hok, herr⟩ := Instr.code_running hi
    simp [State.running, hp, hidle, hok, herr]
  obtain ⟨hm, hst, -⟩ := hs.placed.running hr
  obtain ⟨t, he⟩ := exec_uop_goes_on hi hs.sized hs.underway hst hp hm
  have hstep : step s = .next t := ((stepRunsMicroOperation s i hr (hp ▸ Instr.decode_code hi)).1 hh).trans he
  obtain ⟨-, -, -, -, -, hhost, -⟩ := execKeepsOperands i s t he
  exact ⟨t, hstep, he, stepKeepsInvariant s t hs hstep, hhost.trans hh⟩

/-- From the position of a micro-operation the command ends within the steps that are left. -/
theorem State.Inv.comes_to_rest {s : State} {i : Instr} {n : Nat} (hs : s.Inv) (hh : s.host = []) (hi : i.format = .uop)
    (hp : s.phase = i.code) (hn : s.stepsLeft i ≤ n) :
    ∃ k t, k ≤ n ∧ run k s = .next t ∧ t.running = false ∧ t.done = true := by
  induction n generalizing s i with
  | zero => exact absurd (s.stepsLeft_pos hi) (Nat.not_lt.mpr hn)
  | succ n ih =>
    obtain ⟨t, hstep, he, ht, hth⟩ := hs.step_uop hh hi hp
    have hrun (k : Nat) : run (k + 1) s = run k t := by simp only [run, hstep]
    obtain hend | ⟨j, hj, hpj, hlt⟩ := exec_uop_ends_or_descends hi he
    · exact ⟨1, t, by omega, hrun 0, hend⟩
    · obtain ⟨k, v, hk, hv, hend⟩ := ih ht hth hj hpj (by omega)
      exact ⟨k + 1, v, by omega, (hrun k).trans hv, hend⟩

/-- Settles O12: a machine at rest is there already; a running one is at a micro-operation, each of which lowers the bound
`State.stepsLeft`. -/
theorem commandTerminates : Obligations.CommandTerminates := by
  intro s hs hh
  cases hr : s.running with
  | false => exact ⟨0, s, Nat.zero_le _, rfl, hr, nofun⟩
  | true =>
    obtain ⟨hm, -⟩ := hs.placed.running hr
    obtain ⟨r, -, hi, hp⟩ := microprogram_code _ (mem_microprogram_cmd hm) _ hm
    obtain ⟨n, t, hn, hrun, hrest, hdone⟩ := hs.comes_to_rest hh hi hp (s.stepsLeft_le _)
    exact ⟨n, t, hn, hrun, hrest, fun _ => hdone⟩

end Sys2Proof.Machine
end
